-- ==== Sys2Proof/Word.lean ====
section
/-! DEFINITION. The value widths of the hardware (rule R8) and the two small sums every file speaks of:
the four unit types (rule R1) and the three classes of a symbol candidate (rules R12, R128).
Rule R9: every value is unsigned, bit 0 is the least significant bit. -/

namespace Sys2Proof

/-- A raw byte: `BYTE_W` = 8 (rule R8). Source items and configuration operands are 8 bits too. -/
abbrev Byte := BitVec 8

/-- A symbol: `SYM_W` = 7, "7-bit (ASCII) values" (rules R8, R69). -/
abbrev Sym := BitVec 7

/-- An alphabet index: `IDX_W` = 6, values 0 to 63 (rule R8). -/
abbrev Idx := BitVec 6

/-- The control word `(start, rd, adv)`, bits 2, 1, 0 (rule R94). -/
abbrev Ctl := BitVec 3

/-- The four unit types (rules R1, R4). -/
inductive UnitKind where
  /-- `ENC`, the encoder. -/
  | enc
  /-- `DEC`, the decoder. -/
  | dec
  /-- `VAL`, the validator. -/
  | val
  /-- `TBL`, a stand-alone alphabet table. -/
  | tbl
deriving DecidableEq, Repr

/-- The result of the reverse lookup `Rev` (rules R12, R128): the index exists only for a data symbol
(93_implementation_defined.md U4: "a three-way sum"). -/
inductive SymClass where
  /-- `DATA`, with its index. -/
  | data (i : Idx)
  /-- `PAD`: the padding symbol. -/
  | pad
  /-- `INVALID`: neither. -/
  | invalid
deriving DecidableEq, Repr

end Sys2Proof
end

