-- ==== Sys2Proof/Syntax.lean ====
section
/-! DEFINITION. The commands of the four units (rules R90, R95), one constructor per row of
spec/opcode_table.json. A row written with `x` in its encoding carries the ignored bits, so that no bit of a
control word is lost: `rd` is bit 1 and `adv` is bit 0 (rule R94). -/

namespace Sys2Proof

/-- A command of a unit. The unit type selects the decoder, the driven instance is `State.port`, and the
operands of `CONSTRUCT` and `BUILD` are on the configuration pins, `State.cfg` (rules R94, R96). -/
inductive Instr where
  /-- `ENC.NOP`, `000` (rule R153). -/
  | encNop
  /-- `ENC.ADVANCE`, `001` (rule R148). -/
  | encAdvance
  /-- `ENC.FRONT`, `010` (rule R146). -/
  | encFront
  /-- `ENC.POP`, `011` (rule R152). -/
  | encPop
  /-- `ENC.CONSTRUCT`, `1xx` (rule R142). -/
  | encConstruct (rd adv : Bool)
  /-- `DEC.NOP`, `000` (rule R183). -/
  | decNop
  /-- `DEC.ADVANCE`, `001` (rule R178). -/
  | decAdvance
  /-- `DEC.FRONT`, `010` (rule R176). -/
  | decFront
  /-- `DEC.POP`, `011` (rule R182). -/
  | decPop
  /-- `DEC.CONSTRUCT`, `1xx` (rule R172). -/
  | decConstruct (rd adv : Bool)
  /-- `VAL.NOP`, `0x0` (rule R208). -/
  | valNop (rd : Bool)
  /-- `VAL.STEP`, `0x1` (rule R204). -/
  | valStep (rd : Bool)
  /-- `VAL.CONSTRUCT`, `1xx` (rule R202). -/
  | valConstruct (rd adv : Bool)
  /-- `TBL.NOP`, `0xx` (rule R132). -/
  | tblNop (rd adv : Bool)
  /-- `TBL.BUILD`, `1xx` (rule R121). -/
  | tblBuild (rd adv : Bool)
deriving DecidableEq, Repr

/-- The unit type whose control port takes the command (rule R95). -/
def Instr.unit : Instr → UnitKind
  | .encNop | .encAdvance | .encFront | .encPop | .encConstruct _ _ => .enc
  | .decNop | .decAdvance | .decFront | .decPop | .decConstruct _ _ => .dec
  | .valNop _ | .valStep _ | .valConstruct _ _ => .val
  | .tblNop _ _ | .tblBuild _ _ => .tbl

end Sys2Proof
end

