-- ==== Sys2Proof/Decode.lean ====
section
/-! DEFINITION. From a unit type and a 3-bit control word to a command (rules R94, R95) and back. The four unit
types read the same eight words differently, so the unit type is an argument: in hardware it is which control port
the word is driven on. Every control word has a meaning (rule R97); what is rejected, by name, is a PORT BYTE (the
model's own one-byte spelling of unit type and word, notes/assumptions/5.md) with a bit set that has no meaning. -/

namespace Sys2Proof

/-- `ENC`'s column of rule R95, on `start`, `rd`, `adv`. -/
def decodeEnc : Bool → Bool → Bool → Instr
  | true, rd, adv => .encConstruct rd adv
  | false, false, false => .encNop
  | false, false, true => .encAdvance
  | false, true, false => .encFront
  | false, true, true => .encPop

/-- `DEC`'s column of rule R95. -/
def decodeDec : Bool → Bool → Bool → Instr
  | true, rd, adv => .decConstruct rd adv
  | false, false, false => .decNop
  | false, false, true => .decAdvance
  | false, true, false => .decFront
  | false, true, true => .decPop

/-- `VAL`'s column of rule R95: `rd` is reserved and ignored (rule R97). -/
def decodeVal : Bool → Bool → Bool → Instr
  | true, rd, adv => .valConstruct rd adv
  | false, rd, false => .valNop rd
  | false, rd, true => .valStep rd

/-- `TBL`'s column of rule R95: `rd` and `adv` are reserved and ignored (rule R97). -/
def decodeTbl : Bool → Bool → Bool → Instr
  | true, rd, adv => .tblBuild rd adv
  | false, rd, adv => .tblNop rd adv

/-- The operation map of rule R95: `start`, `rd`, `adv` are bits 2, 1, 0 of the control word (rule R94). -/
def decode (u : UnitKind) (w : Ctl) : Instr :=
  match u with
  | .enc => decodeEnc (w.getLsbD 2) (w.getLsbD 1) (w.getLsbD 0)
  | .dec => decodeDec (w.getLsbD 2) (w.getLsbD 1) (w.getLsbD 0)
  | .val => decodeVal (w.getLsbD 2) (w.getLsbD 1) (w.getLsbD 0)
  | .tbl => decodeTbl (w.getLsbD 2) (w.getLsbD 1) (w.getLsbD 0)

/-- Why a port byte is rejected. -/
inductive Reject where
  /-- Bits 7 to 5 of a port byte have no meaning. Raised by `decodePort`; safe: no control word is refused. -/
  | unusedBits
  /-- A bit above the one byte of a command is set. Raised by `decodeBits`; safe, as above. -/
  | tooLong
deriving DecidableEq, Repr

/-- The unit type numbered 0 to 3 in bits 4 and 3 of a port byte (DESIGN CHOICE, notes/assumptions/5.md). -/
def unitOfBits : Bool → Bool → UnitKind
  | false, false => .enc
  | false, true => .dec
  | true, false => .val
  | true, true => .tbl

/-- A port byte: bits 2 to 0 the control word, bits 4 to 3 the unit type, bits 7 to 5 zero. -/
def decodePort (b : Byte) : Except Reject Instr :=
  if b.extractLsb' 5 3 = 0#3 then
    .ok (decode (unitOfBits (b.getLsbD 4) (b.getLsbD 3)) (b.extractLsb' 0 3))
  else .error .unusedBits

/-- A command whose bits are `w`, numbered from bit 0 as the opcode table numbers them; bits at `nbits` and above
are 0. -/
def decodeBits (nbits w : Nat) : Except Reject Instr :=
  if w % 2 ^ nbits < 256 then decodePort (BitVec.ofNat 8 (w % 2 ^ nbits)) else .error .tooLong

/-- The instruction the decoder reads from a row's word. The table gives a row three bits and four rows, one of each
unit type, share a word; with no port named the word is read on the encoder's port, unit number 0
(DESIGN CHOICE, notes/assumptions/5.md). -/
def decodeTableWord (nbits w : Nat) : Option Instr :=
  match decodeBits nbits w with
  | .ok i => some i
  | .error _ => none

/-- A control word from its three bits (rule R94). -/
def ctlOf (start rd adv : Bool) : Ctl :=
  BitVec.ofBool start ++ BitVec.ofBool rd ++ BitVec.ofBool adv

/-- The unit type and the control word of a command (rule R95). -/
def encode : Instr → UnitKind × Ctl
  | .encNop => (.enc, ctlOf false false false)
  | .encAdvance => (.enc, ctlOf false false true)
  | .encFront => (.enc, ctlOf false true false)
  | .encPop => (.enc, ctlOf false true true)
  | .encConstruct rd adv => (.enc, ctlOf true rd adv)
  | .decNop => (.dec, ctlOf false false false)
  | .decAdvance => (.dec, ctlOf false false true)
  | .decFront => (.dec, ctlOf false true false)
  | .decPop => (.dec, ctlOf false true true)
  | .decConstruct rd adv => (.dec, ctlOf true rd adv)
  | .valNop rd => (.val, ctlOf false rd false)
  | .valStep rd => (.val, ctlOf false rd true)
  | .valConstruct rd adv => (.val, ctlOf true rd adv)
  | .tblNop rd adv => (.tbl, ctlOf false rd adv)
  | .tblBuild rd adv => (.tbl, ctlOf true rd adv)

/-- The number of a unit type in a port byte, the inverse of `unitOfBits`. -/
def unitBits : UnitKind → BitVec 2
  | .enc => 0#2
  | .dec => 1#2
  | .val => 2#2
  | .tbl => 3#2

/-- The port byte of a command. -/
def encodePort (i : Instr) : Byte :=
  0#3 ++ unitBits (encode i).1 ++ (encode i).2

end Sys2Proof
end

