-- ==== Sys2Proof/Machine/State.lean ====
section
/-! DEFINITION. All the state the spec gives the machine (rule R20), as plain data, with the sources the units
pull from (rules R60, R61), the environment's pending inputs, and the model's own bookkeeping (INVENTORY.md,
'## State', says which is which). The hardware is any number of units of each type (rule R8, rule R242):
`encs`, `decs`, `vals`, `tbls` list them by number, and a number past the end of its list is a unit still in its
reset state with nothing wired to it (notes/assumptions/6.md). -/

namespace Sys2Proof.Machine

/-- The codes of the `fault` register (rules R29, R221). -/
inductive FaultCode where
  /-- `NONE`: no fault recorded. -/
  | none
  /-- `CONFIG`: the configuration check failed. -/
  | config
  /-- `MALFORMED`: a decoder needed the index of an invalid symbol. -/
  | malformed
  /-- `PREMATURE`: an operation on an exhausted or not-live cursor. -/
  | premature
deriving DecidableEq, Repr

/-- The registers every unit has (rule R20): `live`, `fault`, `c62`, `c63`, `cpad`. -/
structure Common where
  live  : Bool
  fault : FaultCode
  c62   : Sym
  c63   : Sym
  cpad  : Sym
deriving DecidableEq, Repr

/-- What follows the listed items of a source (rule R60: `len` is "a natural number or infinity"). -/
inductive Tail where
  /-- Nothing: `len` is the number of listed items. -/
  | ends
  /-- Endless source number `k`: `len` is infinite, the further items are `Config.endlessItem k`. -/
  | endless (k : Nat)
deriving DecidableEq, Repr

/-- `SRC = (items, len, rp)` (rule R60). -/
structure Source where
  items : List Byte
  tail  : Tail
  rp    : Nat
deriving DecidableEq, Repr

/-- What a decoder's or validator's source port is wired to (rules R39, R92, R279; notes/assumptions/10.md). -/
inductive Wire where
  /-- An external source. -/
  | stream (src : Source)
  /-- The consumer port of encoder number `k` (chaining, rules R75, R279). -/
  | encoder (k : Nat)
deriving DecidableEq, Repr

/-- An encoder (rules R20, R140) and its byte source. -/
structure Enc where
  com  : Common
  pos  : Fin 4
  prev : Byte
  pad  : Bool
  src  : Source
deriving DecidableEq, Repr

/-- A decoder (rules R20, R170) and its source port. Rule R25 lets `pos` be typed as a number below 3
(notes/assumptions/16.md). -/
structure Dec where
  com       : Common
  pos       : Fin 3
  prev      : Idx
  needPrime : Bool
  src       : Wire
deriving DecidableEq, Repr

/-- A validator (rules R20, R35, R201) and its source port. -/
structure Val where
  com  : Common
  cnt  : Fin 4
  npad : Fin 4
  bad  : Bool
  src  : Wire
deriving DecidableEq, Repr

/-- A stand-alone table (rules R20, R36): the table itself is a function of the three symbols. -/
structure Tbl where
  com : Common
deriving DecidableEq, Repr

/-- The configuration pins `cfg_std`, `cfg_c62`, `cfg_c63`, `cfg_pad` (rule R91). -/
structure CfgPins where
  std : Bool
  c62 : Byte
  c63 : Byte
  pad : Byte
deriving DecidableEq, Repr

/-- What a consumer presents: the unit driven (type and number), its control word and its
configuration pins (rules R91, R94, R96). -/
structure Command where
  unit : UnitKind
  num  : Nat
  ctl  : Ctl
  cfg  : CfgPins
deriving DecidableEq, Repr

/-- A look at an output pin (rules R90, R93, R116). A query is no command and has no encoding. -/
inductive Query where
  /-- `ENC.EMPTY` (rule R144). -/
  | encEmpty (n : Nat)
  /-- The pin `ENC.front`, looked at without `rd` (rule R146 (e)). -/
  | encFront (n : Nat)
  /-- `DEC.EMPTY` (rule R173). -/
  | decEmpty (n : Nat)
  /-- The pin `DEC.front`, looked at without `rd` (rule R176). -/
  | decFront (n : Nat)
  /-- `VAL.OK` (rule R206). -/
  | valOk (n : Nat)
  /-- `TBL.FWD i` (rule R126). -/
  | tblFwd (n : Nat) (i : Idx)
  /-- `TBL.PADSYM` (rule R127). -/
  | tblPadSym (n : Nat)
  /-- `TBL.REV s` (rule R128). -/
  | tblRev (n : Nat) (s : Byte)
  /-- The pin `live` (rule R91). -/
  | live (u : UnitKind) (n : Nat)
  /-- The pins `fault` (rules R29, R91). -/
  | fault (u : UnitKind) (n : Nat)
  /-- The pin `busy` (rules R38, R91). -/
  | busy (u : UnitKind) (n : Nat)
  /-- The pin `src_pop` in a cycle with these values of `rst` and `ctl` (rules R92, R102). -/
  | srcPop (u : UnitKind) (n : Nat) (rst : Bool) (ctl : Ctl)
deriving DecidableEq, Repr

/-- What the outside does to the machine, one event a step (rules R7, R60, R100, R260; notes/assumptions/4.md, 7.md,
8.md, 18.md). -/
inductive Input where
  /-- The consumer issues one operation, at the operation level (rule R6). -/
  | command (c : Command)
  /-- One rising clock edge with `rst` at this value: the unit the command names samples it, every other port holds `NOP`
  (rules R100, R110, R260; notes/assumptions/8.md). -/
  | edge (rst : Bool) (c : Command)
  /-- Somebody looks at an output pin. -/
  | observe (q : Query)
  /-- The owner of encoder `n`'s source presents this source: wires it, extends it, moves it or swaps it
  (rules R63, R212, R231, R265, R271). -/
  | attachEnc (n : Nat) (src : Source)
  /-- The same for decoder `n`'s source port (rule R279 for an encoder). -/
  | attachDec (n : Nat) (w : Wire)
  /-- The same for validator `n`'s source port. -/
  | attachVal (n : Nat) (w : Wire)
deriving DecidableEq, Repr

/-- What the last operation or look gave back (rules R13, R14, R66): the model's own record of the outcome
(notes/assumptions/12.md). -/
inductive Ret where
  /-- Nothing has been issued since reset. -/
  | nothing
  /-- The operation completed and returns no value. -/
  | done
  /-- It completed and returned a symbol (`ENC.FRONT`, `ENC.POP`). -/
  | symbol (v : Sym)
  /-- It completed and returned a byte (`DEC.FRONT`, `DEC.POP`). -/
  | byte (v : Byte)
  /-- It raised this fault and returned no value (rule R13). -/
  | raised (c : FaultCode)
  /-- It was ignored, the unit being faulted (rule R229). -/
  | ignored
  /-- A look at a one-bit pin. -/
  | bit (b : Bool)
  /-- A look at the two `fault` pins. -/
  | code (c : BitVec 2)
  /-- A look at `rev_idx`, `rev_pad`, `rev_inv` (rule R128). -/
  | reverse (idx : Idx) (pad inv : Bool)
deriving DecidableEq, Repr

/-- The machine. -/
structure State where
  encs  : List Enc
  decs  : List Dec
  vals  : List Val
  tbls  : List Tbl
  inbox : List Input   -- what the outside will do, oldest first
  port  : Nat          -- the number of the unit the present command is driven on (notes/assumptions/17.md)
  cfg   : CfgPins      -- the configuration pins of the present command (notes/assumptions/17.md)
  ret   : Ret          -- the outcome of the last operation
  tick  : Nat          -- clock edges so far; indexes the free values (notes/assumptions/3.md)
deriving DecidableEq, Repr

/-- A step that stops the machine. There is none: rule R14 gives an operation two outcomes, it completes or it
raises a fault of the `fault` register, and after either the machine goes on (rules R229, R231); that fault is a
next state (notes/assumptions/2.md). The type is closed and empty. -/
inductive Fault where
deriving DecidableEq, Repr

/-- A command without a meaning. -/
inductive Refusal where
  /-- An arm of `exec` that has no meaning yet; no arm raises it. Safe: the machine would stop. -/
  | notModelled (mnemonic : String)
  /-- `step`, when the pending event would give an encoder's consumer port a second driver or let a second agent pop a unit's
  source: the spec gives it no meaning and says that a model should refuse it (rules R76, R271, R272; 93 U1). Safe: the
  machine stops where the hardware's behaviour is undefined (notes/assumptions/18.md). -/
  | twoDrivers
deriving DecidableEq, Repr

/-- The common registers after reset (rule R40). `c62`, `c63`, `cpad` are unspecified: DESIGN CHOICE 0
(notes/assumptions/1.md). -/
def Common.reset : Common := ⟨false, .none, 0#7, 0#7, 0#7⟩

/-- A source port with nothing behind it: an exhausted source (notes/assumptions/9.md). -/
def Source.nothing : Source := ⟨[], .ends, 0⟩

/-- An encoder after reset (rule R40). `prev` is unspecified: DESIGN CHOICE 0 (notes/assumptions/1.md). -/
def Enc.reset : Enc := ⟨Common.reset, 0, 0#8, false, Source.nothing⟩

/-- A decoder after reset (rule R40). `prev` is unspecified: DESIGN CHOICE 0 (notes/assumptions/1.md). -/
def Dec.reset : Dec := ⟨Common.reset, 0, 0#6, false, .stream Source.nothing⟩

/-- A validator after reset (rule R40). -/
def Val.reset : Val := ⟨Common.reset, 0, 0, false, .stream Source.nothing⟩

/-- A table after reset (rule R40). -/
def Tbl.reset : Tbl := ⟨Common.reset⟩

/-- The machine right after reset: every unit in the state of rule R40, no input pending. One unit of each type is
written out; every further number stands for a unit in the same state. -/
def State.reset : State :=
  { encs := [Enc.reset], decs := [Dec.reset], vals := [Val.reset], tbls := [Tbl.reset], inbox := [], port := 0,
    cfg := ⟨false, 0#8, 0#8, 0#8⟩, ret := .nothing, tick := 0 }

end Sys2Proof.Machine
end

