-- ==== Sys2Proof/Machine/Flags.lean ====
section
/-! DEFINITION. The status registers and flags: the code of `fault` and its latch (rules R29, R224), and the
validator's counters, its sticky `bad` and its verdict (rules R204, R206). -/

namespace Sys2Proof.Machine

/-- The two `fault` bits (rules R29, R221). -/
def FaultCode.bits : FaultCode → BitVec 2
  | .none => 0#2
  | .config => 1#2
  | .malformed => 2#2
  | .premature => 3#2

/-- First fault kept: `raise` writes `fault` only if it holds `NONE` (rule R224). -/
def FaultCode.latch (old new : FaultCode) : FaultCode :=
  if old = .none then new else old

/-- `VAL.npad` after a symbol: counts padding, saturating at 3 (rules R204, R210). -/
def npadNext (cls : SymClass) (npad : Fin 4) : Fin 4 :=
  match cls with
  | .pad => if npad = 3 then 3 else npad + 1
  | .data _ | .invalid => npad

/-- `VAL.bad` after a symbol: set by an invalid symbol and by a data symbol after padding (rules R204, R210). -/
def badNext (cls : SymClass) (npad : Fin 4) (bad : Bool) : Bool :=
  match cls with
  | .invalid => true
  | .data _ => bad || decide (0 < npad)
  | .pad => bad

/-- `VAL.OK` (rule R206). -/
def Val.ok (v : Val) : Bool :=
  v.com.live && v.com.fault = .none && !v.bad && v.npad ≤ 2 && v.cnt = 0

end Sys2Proof.Machine
end

