-- ==== Sys2Proof/Config.lean ====
section
/-! DEFINITION. The free values: what the spec calls "unspecified" (rule R14; 93_implementation_defined.md
section 2, rows X1, X2, X4 to X8) and the one open parameter `SRC` where it is infinite (rules R8, R60, R157).
Each is an opaque constant without a body, so nothing can be proved of its value: a statement holds
for every value. The first argument is `State.tick`, the model's own count of clock edges, so that a value may
differ "each time it is looked at" (rule R14); the last is the instance's number. Two do not take `tick`: `endlessItem`, an
item of a source and no pin, and `freeSrcFront` (notes/assumptions/3.md). -/

namespace Sys2Proof.Config

/-- The item at position `rp` of the endless source number `k`: the parameter `SRC` (rules R60, R157). -/
opaque endlessItem : Nat → Nat → Byte

/-- `src_front` while `src_empty = 1` (X8), by read position alone: the same at every look and for every unit (DESIGN
CHOICE, notes/assumptions/3.md). No rule reads it (rule R61). -/
opaque freeSrcFront : Nat → Byte

/-- `c62` after a hardware reset or a failed construction (X2; rules R40, R123). -/
opaque freeC62 : Nat → UnitKind → Nat → Sym

/-- `c63` after a hardware reset or a failed construction (X2; rules R40, R123). -/
opaque freeC63 : Nat → UnitKind → Nat → Sym

/-- `cpad` after a hardware reset or a failed construction (X2; rules R40, R123). -/
opaque freeCpad : Nat → UnitKind → Nat → Sym

/-- `ENC.prev` after a hardware reset or a failed construction (X1; rules R40, R41). -/
opaque freeEncPrev : Nat → Nat → Byte

/-- `DEC.prev` after a hardware reset or a failed construction (X1; rules R40, R41). -/
opaque freeDecPrev : Nat → Nat → Idx

/-- The pin `ENC.empty` of a faulted encoder (X5; rule R229). -/
opaque freeEncEmpty : Nat → Nat → Bool

/-- The pin `ENC.front` where rule R146 (e) leaves it unspecified (X4, X5). -/
opaque freeEncFront : Nat → Nat → Sym

/-- The pin `DEC.empty` of a faulted or busy decoder (X5, X7; rules R111, R229). -/
opaque freeDecEmpty : Nat → Nat → Bool

/-- The pin `DEC.front` where rule R176 leaves it unspecified (X4, X5, X7). -/
opaque freeDecFront : Nat → Nat → Byte

/-- The pin `fwd_sym` of a table that is not live or faulted (X5, X6; rule R126). -/
opaque freeFwdSym : Nat → Nat → Sym

/-- The pin `pad_sym` of a table that is not live or faulted (X5, X6; rule R127). -/
opaque freePadSym : Nat → Nat → Sym

/-- The pin `rev_idx` of a table that is not live or faulted (X5, X6; rule R128). -/
opaque freeRevIdx : Nat → Nat → Idx

/-- The pin `rev_pad` of a table that is not live or faulted (X5, X6; rule R128). -/
opaque freeRevPad : Nat → Nat → Bool

/-- The pin `rev_inv` of a table that is not live or faulted (X5, X6; rule R128). -/
opaque freeRevInv : Nat → Nat → Bool

end Sys2Proof.Config
end

