-- ==== Sys2Proof/Machine/Operands.lean ====
section
/-! DEFINITION. The combinational functions of the hardware: the configuration check and the operands of
`CONSTRUCT` (rules R96, R122, R124), the alphabet maps (rules R126 to R128) and the bit packing (rule R68). -/

namespace Sys2Proof.Machine

/-- `Std62(v)`: one of the 62 fixed symbols (rule R122). -/
def std62 (v : Byte) : Bool :=
  (0x41#8 ≤ v && v ≤ 0x5A#8) || (0x61#8 ≤ v && v ≤ 0x7A#8) || (0x30#8 ≤ v && v ≤ 0x39#8)

/-- `CfgOk(a, b, p)` (rule R122). -/
def cfgOk (a b p : Byte) : Bool :=
  !a.getLsbD 7 && !b.getLsbD 7 && !p.getLsbD 7 &&
    (!std62 a && !std62 b && !std62 p) && (a != b && a != p && b != p)

/-- The 62nd symbol `CONSTRUCT` uses: `cfg_std` replaces the pin by the default (rules R96, R124). -/
def CfgPins.sel62 (cfg : CfgPins) : Byte := if cfg.std then 0x2B#8 else cfg.c62

/-- The 63rd symbol `CONSTRUCT` uses (rules R96, R124). -/
def CfgPins.sel63 (cfg : CfgPins) : Byte := if cfg.std then 0x2F#8 else cfg.c63

/-- The padding symbol `CONSTRUCT` uses (rules R96, R124). -/
def CfgPins.selPad (cfg : CfgPins) : Byte := if cfg.std then 0x3D#8 else cfg.pad

/-- The check of `BUILD` on the selected operands (rule R121). -/
def CfgPins.ok (cfg : CfgPins) : Bool := cfgOk cfg.sel62 cfg.sel63 cfg.selPad

/-- `Fwd(i)` (rule R126). -/
def Common.fwd (c : Common) (i : Idx) : Sym :=
  if i.toNat ≤ 25 then BitVec.ofNat 7 (0x41 + i.toNat)
  else if i.toNat ≤ 51 then BitVec.ofNat 7 (0x61 + (i.toNat - 26))
  else if i.toNat ≤ 61 then BitVec.ofNat 7 (0x30 + (i.toNat - 52))
  else if i.toNat = 62 then c.c62
  else c.c63

/-- `PadSym()` (rule R127). -/
def Common.padSym (c : Common) : Sym := c.cpad

/-- `Rev(s)` (rule R128). -/
def Common.rev (c : Common) (s : Byte) : SymClass :=
  if s.getLsbD 7 then .invalid
  else if s.extractLsb' 0 7 = c.cpad then .pad
  else if 0x41#8 ≤ s ∧ s ≤ 0x5A#8 then .data (BitVec.ofNat 6 (s.toNat - 0x41))
  else if 0x61#8 ≤ s ∧ s ≤ 0x7A#8 then .data (BitVec.ofNat 6 (s.toNat - 0x61 + 26))
  else if 0x30#8 ≤ s ∧ s ≤ 0x39#8 then .data (BitVec.ofNat 6 (s.toNat - 0x30 + 52))
  else if s.extractLsb' 0 7 = c.c62 then .data 62#6
  else if s.extractLsb' 0 7 = c.c63 then .data 63#6
  else .invalid

/-- The pins `rev_idx`, `rev_pad`, `rev_inv` of a class (rules R93, R128). -/
def revPins : SymClass → Idx × Bool × Bool
  | .data i => (i, false, false)
  | .pad => (0#6, true, false)
  | .invalid => (0#6, false, true)

/-- `zext_8` of a symbol on an 8-bit path (rule R69). -/
def zext8 (v : Sym) : Byte := v.setWidth 8

/-- `cur[7:2]`, the index at `pos` 0 (rules R68, R146). -/
def encIdx0 (cur : Byte) : Idx := cur.extractLsb' 2 6

/-- `prev[1:0]` over `cur[7:4]`, the index at `pos` 1 (rules R68, R146). -/
def encIdx1 (prev cur : Byte) : Idx := prev.extractLsb' 0 2 ++ cur.extractLsb' 4 4

/-- `prev[3:0]` over `cur[7:6]`, the index at `pos` 2 (rules R68, R146). -/
def encIdx2 (prev cur : Byte) : Idx := prev.extractLsb' 0 4 ++ cur.extractLsb' 6 2

/-- `prev[5:0]`, the index at `pos` 3 (rules R68, R146). -/
def encIdx3 (prev : Byte) : Idx := prev.extractLsb' 0 6

/-- `prev[5:0]` over `cur[5:4]`, the byte at `pos` 0 (rules R68, R176). -/
def decByte0 (prev cur : Idx) : Byte := prev ++ cur.extractLsb' 4 2

/-- `prev[3:0]` over `cur[5:2]`, the byte at `pos` 1 (rules R68, R176). -/
def decByte1 (prev cur : Idx) : Byte := prev.extractLsb' 0 4 ++ cur.extractLsb' 2 4

/-- `prev[1:0]` over `cur[5:0]`, the byte at `pos` 2 (rules R68, R176). -/
def decByte2 (prev cur : Idx) : Byte := prev.extractLsb' 0 2 ++ cur

end Sys2Proof.Machine
end

