-- ==== Sys2Proof/Machine/Ops.lean ====
section
/-! DEFINITION. The shared operations: reading and writing units, the source primitives (rule R61), raising a
fault and clearing it (rules R13, R224, R231), the table part of every construction (rules R121, R123), reset (rule
R260), the encoder's cursor (rules R144 to R148), the wires of a source port (rules R92, R279) and the decoder's
prime (rule R180). -/

namespace Sys2Proof.Machine

/-! ### Units by number -/

/-- Unit `n` of a list; past the end stands a unit in its reset state. -/
def unitGet {α : Type} (dflt : α) : List α → Nat → α
  | [], _ => dflt
  | x :: _, 0 => x
  | _ :: xs, n + 1 => unitGet dflt xs n

/-- Unit `n` replaced; units before it that were not listed are listed in their reset state. -/
def unitSet {α : Type} (dflt : α) : List α → Nat → α → List α
  | [], 0, v => [v]
  | [], n + 1, v => dflt :: unitSet dflt [] n v
  | _ :: xs, 0, v => v :: xs
  | x :: xs, n + 1, v => x :: unitSet dflt xs n v

/-- Every listed unit changed, each with its number (the first is number `k`). -/
def unitMap {α : Type} (f : Nat → α → α) : Nat → List α → List α
  | _, [] => []
  | k, x :: xs => f k x :: unitMap f (k + 1) xs

def State.enc (s : State) (n : Nat) : Enc := unitGet Enc.reset s.encs n
def State.dec (s : State) (n : Nat) : Dec := unitGet Dec.reset s.decs n
def State.val (s : State) (n : Nat) : Val := unitGet Val.reset s.vals n
def State.tbl (s : State) (n : Nat) : Tbl := unitGet Tbl.reset s.tbls n

def State.setEnc (s : State) (n : Nat) (e : Enc) : State := { s with encs := unitSet Enc.reset s.encs n e }
def State.setDec (s : State) (n : Nat) (d : Dec) : State := { s with decs := unitSet Dec.reset s.decs n d }
def State.setVal (s : State) (n : Nat) (v : Val) : State := { s with vals := unitSet Val.reset s.vals n v }
def State.setTbl (s : State) (n : Nat) (t : Tbl) : State := { s with tbls := unitSet Tbl.reset s.tbls n t }

/-- The outcome of the operation recorded. -/
def State.withRet (s : State) (r : Ret) : State := { s with ret := r }

/-- The common registers of a unit (rule R20, rows "all"). -/
def State.common (s : State) (u : UnitKind) (n : Nat) : Common :=
  match u with
  | .enc => (s.enc n).com
  | .dec => (s.dec n).com
  | .val => (s.val n).com
  | .tbl => (s.tbl n).com

/-- The common registers of a unit replaced. -/
def State.setCommon (s : State) (u : UnitKind) (n : Nat) (c : Common) : State :=
  match u with
  | .enc => s.setEnc n { s.enc n with com := c }
  | .dec => s.setDec n { s.dec n with com := c }
  | .val => s.setVal n { s.val n with com := c }
  | .tbl => s.setTbl n { s.tbl n with com := c }

/-! ### Faults -/

/-- The code is latched in `fault`, first fault kept, and nothing else is written (rules R224, R226, R234). -/
def Common.raise (c : Common) (code : FaultCode) : Common := { c with fault := c.fault.latch code }

/-- `fault` cleared: the first act of every `CONSTRUCT` and `BUILD`, the only way out of a fault beside reset
(rule R231: "There is no return-from-fault operation"). -/
def Common.clearFault (c : Common) : Common := { c with fault := .none }

/-- TAKING A FAULT, the hardware's exception (rules R13, R228, R234): the operation ends, `fault` of the unit takes
the code, no other register is written, no item consumed, no value returned. -/
def State.raise (s : State) (u : UnitKind) (n : Nat) (code : FaultCode) : State :=
  (s.setCommon u n ((s.common u n).raise code)).withRet (.raised code)

/-! ### Construction and reset -/

/-- The table registers become unspecified (rules R40, R123): free values. -/
def Common.undefTable (c : Common) (tick : Nat) (u : UnitKind) (n : Nat) : Common :=
  { c with c62 := Config.freeC62 tick u n, c63 := Config.freeC63 tick u n, cpad := Config.freeCpad tick u n }

/-- `BUILD` on the common registers (rules R121, R123): performed whatever `live` and `fault` held. -/
def Common.build (c : Common) (cfg : CfgPins) (tick : Nat) (u : UnitKind) (n : Nat) : Common :=
  if cfg.ok then
    { c.clearFault with
      live := true
      c62 := cfg.sel62.extractLsb' 0 7
      c63 := cfg.sel63.extractLsb' 0 7
      cpad := cfg.selPad.extractLsb' 0 7 }
  else (({ c.clearFault with live := false }).undefTable tick u n).raise .config

/-- What a construction gives back: nothing, or the `CONFIG` fault (rules R121, R123). -/
def CfgPins.outcome (cfg : CfgPins) : Ret := if cfg.ok then .done else .raised .config

/-- The common registers after `rst` (rules R40, R260). -/
def Common.hardReset (c : Common) (tick : Nat) (u : UnitKind) (n : Nat) : Common :=
  { c.undefTable tick u n with live := false, fault := .none }

/-- The encoder's cursor at its reset values, `prev` unspecified (rules R40, R41, R123). -/
def Enc.cursorReset (e : Enc) (tick n : Nat) : Enc :=
  { e with pos := 0, prev := Config.freeEncPrev tick n, pad := false }

/-- The decoder's cursor at its reset values, `prev` unspecified (rules R40, R41, R123). -/
def Dec.cursorReset (d : Dec) (tick n : Nat) : Dec :=
  { d with pos := 0, prev := Config.freeDecPrev tick n, needPrime := false }

/-- The validator's counters at their reset values (rules R40, R202). -/
def Val.cursorReset (v : Val) : Val := { v with cnt := 0, npad := 0, bad := false }

def Enc.hardReset (tick n : Nat) (e : Enc) : Enc :=
  { e.cursorReset tick n with com := e.com.hardReset tick .enc n }

def Dec.hardReset (tick n : Nat) (d : Dec) : Dec :=
  { d.cursorReset tick n with com := d.com.hardReset tick .dec n }

def Val.hardReset (tick n : Nat) (v : Val) : Val :=
  { v.cursorReset with com := v.com.hardReset tick .val n }

def Tbl.hardReset (tick n : Nat) (t : Tbl) : Tbl :=
  { t with com := t.com.hardReset tick .tbl n }

/-- A rising edge with `rst = 1`: every unit takes the reset values, no item is consumed, no fault raised
(rule R260). A unit that is not listed is in its reset state already. -/
def State.hardReset (s : State) : State :=
  { s with
    encs := unitMap (Enc.hardReset s.tick) 0 s.encs
    decs := unitMap (Dec.hardReset s.tick) 0 s.decs
    vals := unitMap (Val.hardReset s.tick) 0 s.vals
    tbls := unitMap (Tbl.hardReset s.tick) 0 s.tbls
    ret := .nothing }

/-! ### The source primitives (rule R61) -/

/-- `SrcEmpty()`. -/
def Source.exhausted (src : Source) : Bool :=
  match src.tail with
  | .ends => decide (src.items.length ≤ src.rp)
  | .endless _ => false

/-- `SrcFront()`; with no item there, the unspecified pin (X8), which no rule reads (rule R61). DESIGN CHOICE: that draw hangs
on the read position alone, the same at every look and for every unit (notes/assumptions/3.md). -/
def Source.front (src : Source) : Byte :=
  match src.items[src.rp]?, src.tail with
  | some b, _ => b
  | none, .endless k => Config.endlessItem k src.rp
  | none, .ends => Config.freeSrcFront src.rp

/-- `SrcPop()`, issued only when `SrcEmpty() = 0`. -/
def Source.pop (src : Source) : Source := { src with rp := src.rp + 1 }

/-! ### The encoder's cursor -/

/-- `ENC.EMPTY` of an unfaulted encoder (rules R28, R144): not live, or at a group boundary with no byte left. -/
def Enc.noMore (e : Enc) : Bool := !e.com.live || (e.pos = 0 && e.src.exhausted)

/-- `cur`: the byte at the head of the source, read as 0 when absent (rule R141). -/
def Enc.cur (e : Enc) : Byte := if e.src.exhausted then 0#8 else e.src.front

/-- The symbol `FRONT` returns where it completes (rule R146). -/
def Enc.symbol (e : Enc) : Sym :=
  if e.pos = 0 then e.com.fwd (encIdx0 e.cur)
  else if e.pos = 1 then e.com.fwd (encIdx1 e.prev e.cur)
  else if e.pad then e.com.padSym
  else if e.pos = 2 then e.com.fwd (encIdx2 e.prev e.cur)
  else e.com.fwd (encIdx3 e.prev)

/-- The encoder after an `ADVANCE` that completes (rule R148; the first matching case applies). -/
def Enc.advanced (e : Enc) : Enc :=
  if e.pos = 3 then { e with pos := 0, pad := false }
  else if e.pos = 2 ∧ e.pad = true then { e with pos := 3 }
  else if e.src.exhausted then { e with pad := true, pos := e.pos + 1 }
  else { e with prev := e.src.front, src := e.src.pop, pos := e.pos + 1 }

/-- `ADVANCE` driven on encoder `n` by the wire of a chain (rule R279): as the command, with no consumer to
return anything to. -/
def State.wireAdvance (s : State) (n : Nat) : State :=
  if (s.enc n).com.fault ≠ .none then s
  else if (s.enc n).noMore then s.setCommon .enc n ((s.enc n).com.raise .premature)
  else s.setEnc n (s.enc n).advanced

/-- The pin `ENC.empty` (rules R101, R144); of a faulted encoder unspecified. -/
def State.encEmpty (s : State) (n : Nat) : Bool :=
  if (s.enc n).com.fault ≠ .none then Config.freeEncEmpty s.tick n else (s.enc n).noMore

/-- The pin `ENC.front` (rules R101, R146 (e)); unspecified where `FRONT` would not complete. -/
def State.encFront (s : State) (n : Nat) : Sym :=
  if (s.enc n).com.fault ≠ .none ∨ (s.enc n).noMore = true then Config.freeEncFront s.tick n
  else (s.enc n).symbol

/-- A strobed operation of the encoder driven at `port`: ignored when faulted (rule R229), `PREMATURE` when there
is nothing to present (rule R227), else `k`. -/
def State.encStrobe (s : State) (k : Enc → State) : State :=
  if (s.enc s.port).com.fault ≠ .none then s.withRet .ignored
  else if (s.enc s.port).noMore then s.raise .enc s.port .premature
  else k (s.enc s.port)

/-! ### Source ports of decoders and validators -/

/-- `SrcEmpty()` at the port (rules R92, R279). -/
def State.wireEmpty (s : State) (w : Wire) : Bool :=
  match w with
  | .stream src => src.exhausted
  | .encoder k => s.encEmpty k

/-- `SrcFront()` at the port (rules R92, R279). -/
def State.wireFront (s : State) (w : Wire) : Byte :=
  match w with
  | .stream src => src.front
  | .encoder k => zext8 (s.encFront k)

/-- The port's own source after `SrcPop()`. -/
def Wire.popped (w : Wire) : Wire :=
  match w with
  | .stream src => .stream src.pop
  | .encoder k => .encoder k

/-- What `SrcPop()` does at the other end of the wire: a chained encoder advances (rules R75, R279). -/
def State.wirePop (s : State) (w : Wire) : State :=
  match w with
  | .stream _ => s
  | .encoder k => s.wireAdvance k

/-- The head of the source as the unit sees it: nothing when exhausted, else the class of `Rev(SrcFront())`
(rules R171, R181). -/
def State.head (s : State) (com : Common) (w : Wire) : Option SymClass :=
  if s.wireEmpty w then none else some (com.rev (s.wireFront w))

/-! ### The decoder's cursor -/

/-- The head decoder `n` sees. -/
def State.decHead (s : State) (n : Nat) : Option SymClass := s.head (s.dec n).com (s.dec n).src

/-- The byte at a position (rule R176). -/
def Dec.byte (d : Dec) (cur : Idx) : Byte :=
  if d.pos = 0 then decByte0 d.prev cur
  else if d.pos = 1 then decByte1 d.prev cur
  else decByte2 d.prev cur

/-- One symbol, of index `cur`, consumed into `prev` (rule R180). -/
def State.decTake (s : State) (n : Nat) (cur : Idx) : State :=
  (s.wirePop (s.dec n).src).setDec n { s.dec n with prev := cur, src := (s.dec n).src.popped }

/-- `PRIME` (rule R180): a data symbol at the head moves into `prev`; padding, an invalid symbol or an exhausted
source is left alone. Never faults. -/
def State.prime (s : State) (n : Nat) : State :=
  match s.decHead n with
  | some (.data c) => s.decTake n c
  | some .pad | some .invalid | none => s

/-- One clock edge more (rule R280). -/
def State.nextEdge (s : State) : State := { s with tick := s.tick + 1 }

/-- The micro-step of a busy decoder (rules R110, R111, R233): it primes by itself; a command is not looked at
and leaves no trace in any register (notes/assumptions/11.md). -/
def State.primeEdge (s : State) (n : Nat) : State :=
  (s.prime n).setDec n { (s.prime n).dec n with needPrime := false }

/-- A command with `rd` (`FRONT`, `POP`) strobed while the decoder is busy: nothing is performed, and the consumer is given
the pin `front`, which is unspecified then (rules R111, R273). -/
def State.primeEdgeRead (s : State) (n : Nat) : State := (s.primeEdge n).withRet (.byte (Config.freeDecFront s.tick n))

/-- The busy decoders of these numbers prime, but for the one that is driven, whose command makes it prime. -/
def State.primeOwed (driven : Option Nat) : List Nat → State → State
  | [], s => s
  | n :: ns, s =>
    State.primeOwed driven ns (if (s.dec n).needPrime = true ∧ driven ≠ some n then s.primeEdge n else s)

/-- What a clock edge does beside the event the step names: every busy decoder primes by itself (rules R7, R110: "on its own";
R111: `busy` lasts one cycle and the micro-step is always enabled), as it sees its source in the cycle before the edge
(notes/assumptions/8.md). `driven` is the decoder the event is driven on, if any. -/
def State.settle (s : State) (driven : Option Nat) : State :=
  State.primeOwed driven (List.range s.decs.length) s

/-- The prime an operation ends with: at the operation level part of it, on the edge after (rules R38, R110); at
the pin level only owed, by `need_prime` (notes/assumptions/13.md). -/
def State.owePrime (s : State) (n : Nat) (pinLevel : Bool) : State :=
  if pinLevel then s.setDec n { s.dec n with needPrime := true } else s.nextEdge.prime n

/-- The writes of an `ADVANCE` that completes, `cur` being the head's index (rule R178). -/
def State.decAdvanced (s : State) (n : Nat) (cur : Idx) (pinLevel : Bool) : State :=
  let t := (s.wirePop (s.dec n).src).setDec n
    { s.dec n with prev := cur, src := (s.dec n).src.popped, pos := (s.dec n).pos + 1 }
  if (s.dec n).pos = 2 then t.owePrime n pinLevel else t

/-- A strobed operation of the decoder driven at `port` (rules R174, R227, R229, R233): a busy decoder primes
instead, `rd` being given the unspecified pin; ignored when faulted; `PREMATURE` before `MALFORMED`; else `k` with the head's
index. -/
def State.decStrobe (s : State) (rd : Bool) (k : Dec → Idx → State) : State :=
  let d := s.dec s.port
  if d.needPrime then (if rd then s.primeEdgeRead s.port else s.primeEdge s.port)
  else if d.com.fault ≠ .none then s.withRet .ignored
  else if d.com.live = false then s.raise .dec s.port .premature
  else
    match s.decHead s.port with
    | none | some .pad => s.raise .dec s.port .premature
    | some .invalid => s.raise .dec s.port .malformed
    | some (.data c) => k d c

end Sys2Proof.Machine
end

