-- ==== Sys2Proof/Machine/Decoder.lean ====
section
/-! DEFINITION. The meanings of the decoder's commands (42_decoder.md). `pinLevel` tells the two levels of
description apart (rules R38, R110): at the operation level, which is normative (rule R6), an operation includes its
prime; at the pin level it leaves the prime owed. -/

namespace Sys2Proof.Machine

open Host (Outcome)

/-- `DEC.NOP` (rule R183); a busy decoder primes whatever the command (rule R233). -/
def execDecNop (s : State) : Outcome State Fault Refusal :=
  .next (if (s.dec s.port).needPrime then s.primeEdge s.port else s.withRet .done)

/-- `ADVANCE` at either level (rules R110, R178). -/
def State.decAdvance (s : State) (pinLevel : Bool) : State :=
  s.decStrobe false fun _ c => (s.decAdvanced s.port c pinLevel).withRet .done

/-- `POP` at either level (rules R110, R182): the value of `FRONT` on the state before the advance. -/
def State.decPop (s : State) (pinLevel : Bool) : State :=
  s.decStrobe true fun d c => (s.decAdvanced s.port c pinLevel).withRet (.byte (d.byte c))

/-- `CONSTRUCT` at either level (rules R110, R123, R172): a failed one does not prime. -/
def State.decConstruct (s : State) (pinLevel : Bool) : State :=
  let n := s.port
  let d := s.dec n
  let com := d.com.build s.cfg s.tick .dec n
  if d.needPrime then s.primeEdge n
  else if s.cfg.ok then
    ((s.setDec n { d with com := com, pos := 0, prev := 0#6 }).owePrime n pinLevel).withRet s.cfg.outcome
  else (s.setDec n { d.cursorReset s.tick n with com := com }).withRet s.cfg.outcome

/-- `DEC.ADVANCE` (rule R178). -/
def execDecAdvance (s : State) : Outcome State Fault Refusal := .next (s.decAdvance false)

/-- `DEC.FRONT` (rule R176): writes no register, consumes nothing. -/
def execDecFront (s : State) : Outcome State Fault Refusal :=
  .next (s.decStrobe true fun d c => s.withRet (.byte (d.byte c)))

/-- `DEC.POP` (rule R182). -/
def execDecPop (s : State) : Outcome State Fault Refusal := .next (s.decPop false)

/-- `DEC.CONSTRUCT` (rule R172). -/
def execDecConstruct (s : State) : Outcome State Fault Refusal := .next (s.decConstruct false)

end Sys2Proof.Machine
end

