-- ==== Sys2Proof/Machine/Encoder.lean ====
section
/-! DEFINITION. The meanings of the encoder's commands (41_encoder.md). -/

namespace Sys2Proof.Machine

open Host (Outcome)

/-- `ENC.NOP` (rule R153): reads nothing, writes nothing, never faults. -/
def execEncNop (s : State) : Outcome State Fault Refusal := .next (s.withRet .done)

/-- `ENC.ADVANCE` (rule R148). -/
def execEncAdvance (s : State) : Outcome State Fault Refusal :=
  .next (s.encStrobe fun e => (s.setEnc s.port e.advanced).withRet .done)

/-- `ENC.FRONT` (rule R146): writes no register, consumes nothing. -/
def execEncFront (s : State) : Outcome State Fault Refusal :=
  .next (s.encStrobe fun e => s.withRet (.symbol e.symbol))

/-- `ENC.POP` (rules R103, R152): the value of `FRONT` on the state before the advance, then `ADVANCE`. -/
def execEncPop (s : State) : Outcome State Fault Refusal :=
  .next (s.encStrobe fun e => (s.setEnc s.port e.advanced).withRet (.symbol e.symbol))

/-- `ENC.CONSTRUCT` (rules R123, R142): consumes nothing. -/
def execEncConstruct (s : State) : Outcome State Fault Refusal :=
  let e := s.enc s.port
  let com := e.com.build s.cfg s.tick .enc s.port
  let e' := if s.cfg.ok then { e with com := com, pos := 0, prev := 0#8, pad := false }
    else { e.cursorReset s.tick s.port with com := com }
  .next ((s.setEnc s.port e').withRet s.cfg.outcome)

end Sys2Proof.Machine
end

