-- ==== Sys2Proof/Machine/Table.lean ====
section
/-! DEFINITION. The meanings of a stand-alone table's commands (40_alphabet_table.md). -/

namespace Sys2Proof.Machine

open Host (Outcome)

/-- `TBL.NOP` (rule R132). -/
def execTblNop (s : State) : Outcome State Fault Refusal := .next (s.withRet .done)

/-- `TBL.BUILD` (rules R121, R123). -/
def execTblBuild (s : State) : Outcome State Fault Refusal :=
  let t := s.tbl s.port
  .next ((s.setTbl s.port { t with com := t.com.build s.cfg s.tick .tbl s.port }).withRet s.cfg.outcome)

end Sys2Proof.Machine
end

