-- ==== Sys2Proof/Machine/Validator.lean ====
section
/-! DEFINITION. The meanings of the validator's commands (43_validator.md). -/

namespace Sys2Proof.Machine

open Host (Outcome)

/-- `VAL.NOP` (rule R208). -/
def execValNop (s : State) : Outcome State Fault Refusal := .next (s.withRet .done)

/-- The validator after consuming a symbol of this class (rules R204, R210). -/
def Val.stepped (v : Val) (cls : SymClass) : Val :=
  { v with
    cnt := v.cnt + 1
    npad := npadNext cls v.npad
    bad := badNext cls v.npad v.bad
    src := v.src.popped }

/-- `VAL.STEP` (rule R204): consumes one symbol of whatever class; `PREMATURE` when there is none. -/
def execValStep (s : State) : Outcome State Fault Refusal :=
  let n := s.port
  let v := s.val n
  .next (
    if v.com.fault ≠ .none then s.withRet .ignored
    else if v.com.live = false then s.raise .val n .premature
    else
      match s.head v.com v.src with
      | none => s.raise .val n .premature
      | some cls => ((s.wirePop v.src).setVal n (v.stepped cls)).withRet .done)

/-- `VAL.CONSTRUCT` (rules R123, R202): consumes nothing. -/
def execValConstruct (s : State) : Outcome State Fault Refusal :=
  let v := s.val s.port
  .next ((s.setVal s.port { v.cursorReset with com := v.com.build s.cfg s.tick .val s.port }).withRet s.cfg.outcome)

end Sys2Proof.Machine
end

