-- ==== Sys2Proof/Machine/Dispatch.lean ====
section
/-! DEFINITION. One operation at the operation level (rule R6), driven on unit number `port` of its type: one arm
per row of spec/opcode_table.json. The ignored bits of a word reach no meaning (rules R95, R97). -/

namespace Sys2Proof.Machine

open Host (Outcome)

def exec (i : Instr) (s : State) : Host.Outcome State Fault Refusal :=
  match i with
  | .encNop => Sys2Proof.Machine.execEncNop s
  | .encAdvance => Sys2Proof.Machine.execEncAdvance s
  | .encFront => Sys2Proof.Machine.execEncFront s
  | .encPop => Sys2Proof.Machine.execEncPop s
  | .encConstruct _ _ => Sys2Proof.Machine.execEncConstruct s
  | .decNop => Sys2Proof.Machine.execDecNop s
  | .decAdvance => Sys2Proof.Machine.execDecAdvance s
  | .decFront => Sys2Proof.Machine.execDecFront s
  | .decPop => Sys2Proof.Machine.execDecPop s
  | .decConstruct _ _ => Sys2Proof.Machine.execDecConstruct s
  | .valNop _ => Sys2Proof.Machine.execValNop s
  | .valStep _ => Sys2Proof.Machine.execValStep s
  | .valConstruct _ _ => Sys2Proof.Machine.execValConstruct s
  | .tblNop _ _ => Sys2Proof.Machine.execTblNop s
  | .tblBuild _ _ => Sys2Proof.Machine.execTblBuild s

end Sys2Proof.Machine
end

