-- ==== Sys2Proof/Machine/Pins.lean ====
section
/-! DEFINITION. The pin-level binding (30_encoding.md): the output pins as functions of the state (rules R91 to R93,
R101, R102), what a look at one gives, one rising clock edge of a unit (rules R100, R110, R111, R233), who may drive an encoder (rule R272),
and a clock cycle of the machine. -/

namespace Sys2Proof.Machine

open Host (Outcome)

/-- The pin `busy`: constant 0 but on a decoder (rules R38, R91). -/
def State.busy (s : State) (u : UnitKind) (n : Nat) : Bool :=
  match u with
  | .dec => (s.dec n).needPrime
  | .enc | .val | .tbl => false

/-- The pin `DEC.empty` (rules R101, R173); of a faulted or busy decoder unspecified (rules R111, R229). -/
def State.decEmpty (s : State) (n : Nat) : Bool :=
  if (s.dec n).needPrime = true ∨ (s.dec n).com.fault ≠ .none then Config.freeDecEmpty s.tick n
  else if (s.dec n).com.live = false then true
  else
    match s.decHead n with
    | none | some .pad => true
    | some .invalid | some (.data _) => false

/-- The pin `DEC.front` (rules R101, R176); unspecified where `FRONT` would not complete. -/
def State.decFront (s : State) (n : Nat) : Byte :=
  if (s.dec n).needPrime = true ∨ (s.dec n).com.fault ≠ .none ∨ (s.dec n).com.live = false then
    Config.freeDecFront s.tick n
  else
    match s.decHead n with
    | some (.data c) => (s.dec n).byte c
    | none | some .pad | some .invalid => Config.freeDecFront s.tick n

/-- The pin `VAL.ok` (rule R206), defined on a not-live or faulted unit too. -/
def State.valOk (s : State) (n : Nat) : Bool := (s.val n).ok

/-- A table that answers its queries: live and unfaulted (rules R126 to R128). -/
def Tbl.answers (t : Tbl) : Bool := t.com.live && t.com.fault = .none

/-- The pin `fwd_sym` for the operand `fwd_idx` (rule R126). -/
def State.tblFwd (s : State) (n : Nat) (i : Idx) : Sym :=
  if (s.tbl n).answers then (s.tbl n).com.fwd i else Config.freeFwdSym s.tick n

/-- The pin `pad_sym` (rule R127). -/
def State.tblPadSym (s : State) (n : Nat) : Sym :=
  if (s.tbl n).answers then (s.tbl n).com.padSym else Config.freePadSym s.tick n

/-- The pins `rev_idx`, `rev_pad`, `rev_inv` for the operand `rev_sym` (rule R128). -/
def State.tblRev (s : State) (n : Nat) (v : Byte) : Idx × Bool × Bool :=
  if (s.tbl n).answers then revPins ((s.tbl n).com.rev v)
  else (Config.freeRevIdx s.tick n, Config.freeRevPad s.tick n, Config.freeRevInv s.tick n)

/-- An unfaulted, live unit whose control word has `start = 0` and `adv = 1`: the commands that may pop. -/
def Common.popping (c : Common) (ctl : Ctl) : Bool :=
  c.live && c.fault = .none && !ctl.getLsbD 2 && ctl.getLsbD 0

/-- The head is a data symbol, the only kind a decoder consumes (rules R65, R180). -/
def State.decHeadData (s : State) (n : Nat) : Bool :=
  match s.decHead n with
  | some (.data _) => true
  | some .pad | some .invalid | none => false

/-- The pin `src_pop`: the coming edge will pop the source (rules R65, R102, R110). A table has no source. -/
def State.srcPop (s : State) (u : UnitKind) (n : Nat) (rst : Bool) (ctl : Ctl) : Bool :=
  !rst &&
    match u with
    | .enc =>
      (s.enc n).com.popping ctl && (s.enc n).pos != 3 && !((s.enc n).pos = 2 && (s.enc n).pad) &&
        !(s.enc n).src.exhausted
    | .dec => ((s.dec n).needPrime || (s.dec n).com.popping ctl) && s.decHeadData n
    | .val => (s.val n).com.popping ctl && !s.wireEmpty (s.val n).src
    | .tbl => false

/-- What a look at a pin gives (rules R90, R116). -/
def State.answer (s : State) : Query → Ret
  | .encEmpty n => .bit (s.encEmpty n)
  | .encFront n => .symbol (s.encFront n)
  | .decEmpty n => .bit (s.decEmpty n)
  | .decFront n => .byte (s.decFront n)
  | .valOk n => .bit (s.valOk n)
  | .tblFwd n i => .symbol (s.tblFwd n i)
  | .tblPadSym n => .symbol (s.tblPadSym n)
  | .tblRev n v => .reverse (s.tblRev n v).1 (s.tblRev n v).2.1 (s.tblRev n v).2.2
  | .live u n => .bit (s.common u n).live
  | .fault u n => .code (s.common u n).fault.bits
  | .busy u n => .bit (s.busy u n)
  | .srcPop u n rst ctl => .bit (s.srcPop u n rst ctl)

/-- One rising edge with `rst = 0` (rules R100, R110): the operation of the control word, a decoder's prime left owed.
Only a decoder is ever busy, and then it primes instead (rule R111). -/
def edge (i : Instr) (s : State) : Outcome State Fault Refusal :=
  match i with
  | .decAdvance => .next (s.decAdvance true)
  | .decPop => .next (s.decPop true)
  | .decConstruct _ _ => .next (s.decConstruct true)
  | .encNop | .encAdvance | .encFront | .encPop | .encConstruct _ _ | .decNop | .decFront | .valNop _ | .valStep _
  | .valConstruct _ _ | .tblNop _ _ | .tblBuild _ _ => exec i s

/-! ### Who drives an encoder (rules R62, R76, R271, R272, R279; notes/assumptions/18.md) -/

/-- The decoder a command is driven on. -/
def Command.drivenDec (c : Command) : Option Nat := if c.unit = .dec then some c.num else none

/-- The encoder a source port is wired to, if any. -/
def Wire.feeder : Wire → List Nat
  | .stream _ => []
  | .encoder k => [k]

/-- The encoders that source ports are wired to, one entry a port. -/
def State.feeders (s : State) : List Nat :=
  s.decs.flatMap (fun d => d.src.feeder) ++ s.vals.flatMap (fun v => v.src.feeder)

/-- No encoder is wired to two source ports: each would drive its `adv` (rules R272, R279). -/
def State.oneDriver (s : State) : Bool := decide s.feeders.Nodup

/-- A unit between its construction and the end of its use has encoder `k` as its source (rule R271). -/
def State.feedsLive (s : State) (k : Nat) : Bool :=
  s.decs.any (fun d => d.com.live && d.src = .encoder k) || s.vals.any (fun v => v.com.live && v.src = .encoder k)

/-- At the coming edge the prime of a busy decoder pops encoder `k` (rules R102, R279). -/
def State.primePops (s : State) (k : Nat) : Bool :=
  (List.range s.decs.length).any fun m => (s.dec m).needPrime && (s.dec m).src = .encoder k && s.decHeadData m

/-- The consumer drives an encoder that has another driver: it pops the source of a unit in use (rule R271), or presents a
command at an edge at which a prime advances that encoder (rule R272). `NOP` is no command. -/
def State.secondDriver (s : State) (c : Command) : Bool :=
  c.unit = .enc &&
    ((!c.ctl.getLsbD 2 && c.ctl.getLsbD 0 && s.feedsLive c.num) || (c.ctl != 0#3 && s.primePops c.num))

/-- The event's wiring, done before the edge. -/
def State.rewired (s : State) : Input → State
  | .attachEnc n src => s.setEnc n { s.enc n with src := src }
  | .attachDec n w => s.setDec n { s.dec n with src := w }
  | .attachVal n w => s.setVal n { s.val n with src := w }
  | .command _ | .edge _ _ | .observe _ => s

/-- The pending event would give an encoder a second driver. An edge with `rst = 1` looks at no command (rule R260). -/
def State.contended (s : State) : Bool :=
  match s.inbox with
  | [] => !s.oneDriver
  | .edge true _ :: _ => false
  | .command c :: _ | .edge false c :: _ => !s.oneDriver || s.nextEdge.secondDriver c
  | .observe _ :: _ => !s.oneDriver
  | .attachEnc n src :: _ => !(s.rewired (.attachEnc n src)).oneDriver
  | .attachDec n w :: _ => !(s.rewired (.attachDec n w)).oneDriver
  | .attachVal n w :: _ => !(s.rewired (.attachVal n w)).oneDriver

/-! ### A clock cycle -/

/-- The state in which a command is performed: its pins hold, it is no longer pending, and a clock edge has come. -/
def State.present (s : State) (c : Command) (rest : List Input) : State :=
  { s with inbox := rest, port := c.num, cfg := c.cfg, tick := s.tick + 1 }

/-- The state in which anything else happens. -/
def State.await (s : State) (rest : List Input) : State :=
  { s with inbox := rest, tick := s.tick + 1 }

/-- One clock cycle and the edge that ends it, of the whole machine: the oldest pending event, `NOP` on every port it does
not name, and the prime of every decoder that was busy in the cycle (rules R100, R110, R111). With nothing pending no
operation is issued (rules R7, R243). A look sees the cycle before the edge, a source is wired before it
(notes/assumptions/8.md). With `rst = 1` nothing but reset happens (rules R233, R260). -/
def State.cycle (s : State) : Outcome State Fault Refusal :=
  match s.inbox with
  | [] => .next ((s.await []).settle none)
  | .command c :: rest => exec (decode c.unit c.ctl) ((s.present c rest).settle c.drivenDec)
  | .edge true c :: rest => .next (s.present c rest).hardReset
  | .edge false c :: rest => edge (decode c.unit c.ctl) ((s.present c rest).settle c.drivenDec)
  | .observe q :: rest => .next (((s.await rest).withRet ((s.await rest).answer q)).settle none)
  | .attachEnc n src :: rest => .next (((s.await rest).rewired (.attachEnc n src)).settle none)
  | .attachDec n w :: rest => .next (((s.await rest).rewired (.attachDec n w)).settle none)
  | .attachVal n w :: rest => .next (((s.await rest).rewired (.attachVal n w)).settle none)

end Sys2Proof.Machine
end

