-- ==== Sys2Proof/Machine/Step.lean ====
section
/-! DEFINITION. One step, a clock cycle: the oldest pending input happens. There is no program and no fetch (rule R24); the consumer's
command plays the instruction's part and the queue of pending inputs the program's (notes/assumptions/4.md). -/

namespace Sys2Proof.Machine

open Host (Outcome)

/-- One step: one clock cycle, but for an event that would give an encoder two drivers, which has no meaning and is refused
(rules R76, R271, R272; notes/assumptions/18.md). -/
def step (s : State) : Outcome State Fault Refusal :=
  if s.contended then .refused .twoDrivers else s.cycle

/-- The configuration pins that `withFetchWord` drives: the standard alphabet (notes/assumptions/5.md). -/
def CfgPins.standard : CfgPins := ⟨true, 0#8, 0#8, 0#8⟩

/-- The command of a row's word, pending as the next input, on unit number 0 of its type. A word that is no
command leaves the state as it is. -/
def State.withFetchWord (s : State) (nbits w : Nat) : State :=
  match decodeBits nbits w with
  | .ok i =>
    { s with inbox := .command ⟨(encode i).1, 0, (encode i).2, CfgPins.standard⟩ :: s.inbox }
  | .error _ => s

end Sys2Proof.Machine
end

