-- ==== Sys2Proof/Machine/Pseudo.lean ====
section
/-! DEFINITION. The pseudo-operations `DRAIN` and `RUN` (rule R116) as runs of `exec`, cut off after `k` rounds, with the
produced sequence (rule R66), and the source's `encode`, `decode` and `isValid`. They stop at a fault (rules R230, R275). -/

namespace Sys2Proof.Machine

open Host (Outcome)

/-- The command driven on unit `n`, at a clock edge of its own: `tick` moves on, so that two rounds of a loop see two
draws of a free value, as two steps do (DESIGN CHOICE, notes/assumptions/3.md). These are operations of the operation
level, where no decoder is busy between two of them (rule R38), so nothing primes beside. `exec` never stops (rule R14), and
if it did the state would stay. -/
def State.issue (s : State) (n : Nat) (i : Instr) : State :=
  match exec i { s with port := n, tick := s.tick + 1 } with
  | .next t => t
  | .fault _ => s
  | .refused _ => s

/-- At most `k` rounds of `DRAIN` on encoder `n`: the symbols returned and the state reached. -/
def State.encDrain (n : Nat) : Nat → State → List Sym × State
  | 0, s => ([], s)
  | k + 1, s =>
    if (s.enc n).com.fault = .none ∧ s.encEmpty n = false then
      match (s.issue n .encPop).ret with
      | .symbol v => (v :: (State.encDrain n k (s.issue n .encPop)).1, (State.encDrain n k (s.issue n .encPop)).2)
      | _ => ([], s.issue n .encPop)
    else ([], s)

/-- At most `k` rounds of `DRAIN` on decoder `n`: the bytes returned and the state reached. -/
def State.decDrain (n : Nat) : Nat → State → List Byte × State
  | 0, s => ([], s)
  | k + 1, s =>
    if (s.dec n).com.fault = .none ∧ s.decEmpty n = false then
      match (s.issue n .decPop).ret with
      | .byte v => (v :: (State.decDrain n k (s.issue n .decPop)).1, (State.decDrain n k (s.issue n .decPop)).2)
      | _ => ([], s.issue n .decPop)
    else ([], s)

/-- At most `k` rounds of `RUN` on validator `n`: the state reached. -/
def State.valRun (n : Nat) : Nat → State → State
  | 0, s => s
  | k + 1, s =>
    if (s.val n).com.fault = .none ∧ s.wireEmpty (s.val n).src = false then
      State.valRun n k (s.issue n (.valStep false))
    else s

/-- A finite source of these items, none popped. -/
def Source.of (items : List Byte) : Source := ⟨items, .ends, 0⟩

/-- Encoder `n` constructed over the bytes `b`, with the configuration pins of `s` (rule R116). -/
def State.encOver (s : State) (n : Nat) (b : List Byte) : State :=
  (s.setEnc n { s.enc n with src := Source.of b }).issue n (.encConstruct false false)

/-- Decoder `n` constructed over the symbol candidates `t`, with the configuration pins of `s` (rule R116). -/
def State.decOver (s : State) (n : Nat) (t : List Byte) : State :=
  (s.setDec n { s.dec n with src := .stream (Source.of t) }).issue n (.decConstruct false false)

/-- Validator `n` constructed over the symbol candidates `t`, with the configuration pins of `s` (rule R116). -/
def State.valOver (s : State) (n : Nat) (t : List Byte) : State :=
  (s.setVal n { s.val n with src := .stream (Source.of t) }).issue n (.valConstruct false false)

/-- `encode(b)`: `CONSTRUCT` then `DRAIN`; four symbols for at most three bytes are enough rounds (rules R116, R155). -/
def State.encodeBytes (s : State) (n : Nat) (b : List Byte) : List Sym :=
  (State.encDrain n (4 * b.length + 4) (s.encOver n b)).1

/-- `decode(t)`: `CONSTRUCT` then `DRAIN`; a byte takes a symbol at least (rules R65, R116). -/
def State.decodeSymbols (s : State) (n : Nat) (t : List Byte) : List Byte :=
  (State.decDrain n (t.length + 1) (s.decOver n t)).1

/-- `isValid(t)`: `CONSTRUCT`, `RUN`, `OK` (rule R116). -/
def State.isValid (s : State) (n : Nat) (t : List Byte) : Bool :=
  (State.valRun n t.length (s.valOver n t)).valOk n

end Sys2Proof.Machine
end

