-- ==== Sys2Proof/Safety.lean ====
section
/-! DEFINITION. The terms claims are made in: the invariant of the machine, a conforming source, drained and faulted units. -/

namespace Sys2Proof.Machine

/-- While a unit is live its table passed the check (rule R30: "no other triple can ever be in them while
`live = 1`") and its fault is not `CONFIG` (rules R28, R123). -/
abbrev Common.Inv (c : Common) : Prop :=
  c.live = true → cfgOk (zext8 c.c62) (zext8 c.c63) (zext8 c.cpad) = true ∧ c.fault ≠ .config

/-- An encoder no step leads out of: `pad` only at `pos` 2 and 3 (rule R27), the fault one an encoder can raise
(rule R221), the cursor at its reset values while not live (rules R40, R123). -/
abbrev Enc.Inv (e : Enc) : Prop :=
  e.com.Inv ∧ e.com.fault ≠ .malformed ∧ (e.pad = true → e.pos = 2 ∨ e.pos = 3) ∧
    (e.com.live = false → e.pos = 0 ∧ e.pad = false)

/-- The same for a decoder: a prime is owed only at a group boundary of a live, unfaulted unit (rules R38, R110), and only
a live unit can have met an invalid symbol (rule R233). -/
abbrev Dec.Inv (d : Dec) : Prop :=
  d.com.Inv ∧ (d.com.fault = .malformed → d.com.live = true) ∧
    (d.needPrime = true → d.com.live = true ∧ d.com.fault = .none ∧ d.pos = 0) ∧
    (d.com.live = false → d.pos = 0 ∧ d.needPrime = false)

/-- The same for a validator: never `MALFORMED` (rule R204), counters at their reset values while not live. -/
abbrev Val.Inv (v : Val) : Prop :=
  v.com.Inv ∧ v.com.fault ≠ .malformed ∧ (v.com.live = false → v.cnt = 0 ∧ v.npad = 0 ∧ v.bad = false)

/-- The same for a table: it raises nothing but `CONFIG`, and then is not live (rules R121, R221). -/
abbrev Tbl.Inv (t : Tbl) : Prop := t.com.Inv ∧ (t.com.fault = .none ∨ t.com.fault = .config)

/-- The invariant of the machine: of every unit, and no encoder wired to two source ports (rule R272). -/
abbrev State.Inv (s : State) : Prop :=
  (∀ e ∈ s.encs, e.Inv) ∧ (∀ d ∈ s.decs, d.Inv) ∧ (∀ v ∈ s.vals, v.Inv) ∧ (∀ t ∈ s.tbls, t.Inv) ∧ s.oneDriver = true

/-! ### A conforming source (rule R62), the premise rule R63 asks for -/

/-- What the source port of a unit shows: nothing when `SrcEmpty()`, else `SrcFront()`. A table has none. -/
def State.srcShows (s : State) (u : UnitKind) (n : Nat) : Option Byte :=
  match u with
  | .enc => if (s.enc n).src.exhausted then none else some (s.enc n).src.front
  | .dec => if s.wireEmpty (s.dec n).src then none else some (s.wireFront (s.dec n).src)
  | .val => if s.wireEmpty (s.val n).src then none else some (s.wireFront (s.val n).src)
  | .tbl => none

/-- The state with the wiring of the pending event done. -/
def State.wiring (s : State) : State :=
  match s.inbox with
  | [] => s
  | x :: _ => s.rewired x

/-- Nothing was taken from a source or put back, and every item it held is where it was: `rp` is the same (only `SrcPop()` moves
it, rule R61) and no listed item is gone (`items` is one function, rule R60); more of it may have become listed. -/
def Source.KeptAs (src src' : Source) : Prop := src'.rp = src.rp ∧ src.items <+: src'.items

/-- The same of what a port is wired to: a stream kept, or the same encoder. -/
def Wire.KeptAs : Wire → Wire → Prop
  | .stream src, .stream src' => src.KeptAs src'
  | .encoder k, .encoder k' => k' = k
  | .stream _, .encoder _ | .encoder _, .stream _ => False

/-- From `s` to `t` the source of unit `n` was kept as it was. -/
def State.SourceKept (s t : State) (u : UnitKind) (n : Nat) : Prop :=
  match u with
  | .enc => (s.enc n).src.KeptAs (t.enc n).src
  | .dec => (s.dec n).src.KeptAs (t.dec n).src
  | .val => (s.val n).src.KeptAs (t.val n).src
  | .tbl => True

/-- In the step to come the source of every unit in use is conforming (rule R62): the premise of a claim that needs it (rule
R63). What an operation itself pops is no breach. -/
structure State.Conforming (s : State) : Prop where
  /-- (a): once the source is exhausted it stays so. -/
  permanent : ∀ u n tick, (s.common u n).live = true → s.srcShows u n = none →
    ({ s.wiring with tick := tick } : State).srcShows u n = none
  /-- (b): unpopped, the port shows the same however often it is looked at, whatever the clock says. -/
  steady : ∀ u n tick b, (s.common u n).live = true → s.srcShows u n = some b →
    ({ s.wiring with tick := tick } : State).srcShows u n = some b
  /-- (c), an external source: nobody but its unit pops it; the event's wiring takes nothing from it, though what the port
  shows might be the same after it. -/
  owned : ∀ u n, (s.common u n).live = true → s.SourceKept s.wiring u n
  /-- (c), a chained one: no encoder has two drivers, and the consumer leaves alone one that is the source of a unit in
  use. -/
  exclusive : s.contended = false ∧ ∀ c rest, s.inbox = .command c :: rest ∨ s.inbox = .edge false c :: rest →
    c.unit = .enc → c.ctl ≠ 0#3 → s.feedsLive c.num = false

/-- The source port of unit `p` is wired to encoder `k` (rule R279). -/
def State.WiredTo (s : State) (p : UnitKind × Nat) (k : Nat) : Prop :=
  match p.1 with
  | .dec => (s.dec p.2).src = .encoder k
  | .val => (s.val p.2).src = .encoder k
  | .enc | .tbl => False

/-- No unit is faulted: the premise of claims about runs (rule R230). -/
abbrev State.Unfaulted (s : State) : Prop :=
  (∀ e ∈ s.encs, e.com.fault = .none) ∧ (∀ d ∈ s.decs, d.com.fault = .none) ∧
    (∀ v ∈ s.vals, v.com.fault = .none) ∧ (∀ t ∈ s.tbls, t.com.fault = .none)

/-- An encoder that has presented all its symbols; a faulted one never counts (rule R230). -/
abbrev Enc.Drained (e : Enc) : Prop := e.com.fault = .none ∧ e.com.live = true ∧ e.noMore = true

/-- A decoder of the state that has presented all its bytes; a faulted one never counts (rule R230). -/
abbrev State.DecDrained (s : State) (n : Nat) : Prop :=
  (s.dec n).com.fault = .none ∧ (s.dec n).com.live = true ∧ s.decEmpty n = true

end Sys2Proof.Machine
end

