-- ==== Sys2Proof/WellFormed.lean ====
section
/-! DEFINITION. Well-formed commands. Rule R97: "A driver should hold reserved bits at 0". No control word is
illegal and none traps, so the machine runs every command, well-formed or not, and ignores those bits. -/

namespace Sys2Proof

/-- The command as a driver should give it: the bits that rules R95 and R97 ignore are 0. -/
def Instr.wf : Instr → Bool
  | .encNop | .encAdvance | .encFront | .encPop => true
  | .decNop | .decAdvance | .decFront | .decPop => true
  | .encConstruct rd adv => !rd && !adv
  | .decConstruct rd adv => !rd && !adv
  | .valNop rd => !rd
  | .valStep rd => !rd
  | .valConstruct rd adv => !rd && !adv
  | .tblNop rd adv => !rd && !adv
  | .tblBuild rd adv => !rd && !adv

end Sys2Proof
end

