-- ==== Sys2Proof/Certificates/Slice0/Obligations.lean ====
section
/-! DEFINITION. The statements about the machine, and the few predicates they are written with. What an operation returns
is read from `ret`, the model's own record (notes/assumptions/12.md); `inbox`, `port`, `cfg` and `tick` are the model's own
fields too (notes/assumptions/4.md, 17.md, 3.md, 13.md), and that a fault is a next state is notes/assumptions/2.md. -/

namespace Sys2Proof.Claims

open Sys2Proof.Machine

/-- `CONSTRUCT` and `BUILD`, the commands that write control registers (rule R244). -/
def constructs : Instr → Bool
  | .encConstruct _ _ | .decConstruct _ _ | .valConstruct _ _ | .tblBuild _ _ => true
  | .encNop | .encAdvance | .encFront | .encPop | .decNop | .decAdvance | .decFront | .decPop | .valNop _
  | .valStep _ | .tblNop _ _ => false

/-- The command is driven on unit `n` of type `u`. -/
def Drives (s : State) (i : Instr) (u : UnitKind) (n : Nat) : Prop := i.unit = u ∧ s.port = n

/-- The command is driven on a busy decoder, which does not look at it (rule R111). -/
def Unheard (s : State) (i : Instr) : Prop := i.unit = .dec ∧ (s.dec s.port).needPrime = true

/-- The command is `FRONT`, `ADVANCE` or `POP` of an encoder. -/
def encStrobed (i : Instr) : Prop := i = .encFront ∨ i = .encAdvance ∨ i = .encPop

/-- The command is `FRONT`, `ADVANCE` or `POP` of a decoder. -/
def decStrobed (i : Instr) : Prop := i = .decFront ∨ i = .decAdvance ∨ i = .decPop

/-- The command is `STEP`. -/
def valStepped (i : Instr) : Prop := ∃ rd, i = .valStep rd

/-- A row of the encoder's table with `EMPTY = 0`: the pin `front` shows `v`, `FRONT` returns it, `ADVANCE` leaves the
encoder `e'`, `POP` does both, and nothing else of the machine changes. -/
def EncRow (s : State) (v : Sym) (e' : Enc) : Prop :=
  s.answer (.encEmpty s.port) = .bit false ∧ s.answer (.encFront s.port) = .symbol v ∧
    exec .encFront s = .next { s with ret := .symbol v } ∧
    exec .encAdvance s = .next { s.setEnc s.port e' with ret := .done } ∧
    exec .encPop s = .next { s.setEnc s.port e' with ret := .symbol v }

/-- The driven encoder's `fault` set to `c` and nothing else but the outcome. -/
def encFaulted (s : State) (c : FaultCode) : State :=
  { s.setEnc s.port { s.enc s.port with com := { (s.enc s.port).com with fault := c } } with ret := .raised c }

/-- The driven decoder's `fault` set to `c` and nothing else but the outcome. -/
def decFaulted (s : State) (c : FaultCode) : State :=
  { s.setDec s.port { s.dec s.port with com := { (s.dec s.port).com with fault := c } } with ret := .raised c }

/-- The driven validator's `fault` set to `c` and nothing else but the outcome. -/
def valFaulted (s : State) (c : FaultCode) : State :=
  { s.setVal s.port { s.val s.port with com := { (s.val s.port).com with fault := c } } with ret := .raised c }

/-- A row of the decoder's table with `EMPTY = 0` and a data symbol at the head: the pin `front` shows `v`, `FRONT`
returns it, `ADVANCE` leaves the machine `t`, `POP` does both. -/
def DecRow (s : State) (v : Byte) (t : State) : Prop :=
  s.answer (.decEmpty s.port) = .bit false ∧ s.answer (.decFront s.port) = .byte v ∧
    exec .decFront s = .next { s with ret := .byte v } ∧
    exec .decAdvance s = .next { t with ret := .done } ∧
    exec .decPop s = .next { t with ret := .byte v }

/-- Decoder `n` has consumed the symbol of index `c` at the head of its source: `prev` holds the index, the source (and,
chained, the encoder behind it) has moved on, `pos` is `p`. -/
def decConsumed (s : State) (n : Nat) (c : Idx) (p : Fin 3) : State :=
  (s.wirePop (s.dec n).src).setDec n { s.dec n with prev := c, pos := p, src := (s.dec n).src.popped }

/-- The three operands a construction selects (rules R96, R124). -/
def selected (s : State) : Byte × Byte × Byte :=
  if s.cfg.std then (0x2B#8, 0x2F#8, 0x3D#8) else (s.cfg.c62, s.cfg.c63, s.cfg.pad)

/-- `CfgOk` of the selected operands (rule R121). -/
def accepted (s : State) : Bool := cfgOk (selected s).1 (selected s).2.1 (selected s).2.2

/-- The common registers an accepted construction leaves (rules R41, R121). -/
def built (s : State) : Common :=
  ⟨true, .none, (selected s).1.setWidth 7, (selected s).2.1.setWidth 7, (selected s).2.2.setWidth 7⟩

/-- Common registers a failed construction may leave: not live, `CONFIG`, the table registers anything (rule R123). -/
def Unbuilt (c : Common) : Prop := c.live = false ∧ c.fault = .config

/-- A declared well-formed symbol sequence (rule R200): four conditions on the classes of its symbols. -/
def WellFormedSymbols (c : Common) (t : List Byte) : Prop :=
  (∀ v ∈ t, c.rev v ≠ .invalid) ∧
    (∀ i j : Nat, i < j → ∀ (hj : j < t.length) (hi : i < t.length),
      c.rev t[i] = .pad → c.rev t[j] = .pad) ∧
    (t.countP fun v => c.rev v = .pad) ≤ 2 ∧ t.length % 4 = 0

/-- Two units' common registers, alike but for what is unspecified while a unit is not live (rules R28, R40). -/
def AlikeCommon (c c' : Common) : Prop :=
  c.live = c'.live ∧ c.fault = c'.fault ∧ (c.live = true → c = c')

/-- Two states alike but for the registers that reset leaves unspecified (rule R40), in any number of units of every type
that are not live: `prev`, `c62`, `c63`, `cpad`. No decoder that is not live owes a prime (rules R38, R40). -/
def Alike (s s' : State) : Prop :=
  (s.inbox = s'.inbox ∧ s.port = s'.port ∧ s.cfg = s'.cfg ∧ s.ret = s'.ret ∧ s.tick = s'.tick) ∧
  ∀ n, (AlikeCommon (s.enc n).com (s'.enc n).com ∧ (s.enc n).pos = (s'.enc n).pos ∧ (s.enc n).pad = (s'.enc n).pad ∧
      (s.enc n).src = (s'.enc n).src ∧ ((s.enc n).com.live = true → (s.enc n).prev = (s'.enc n).prev)) ∧
    (AlikeCommon (s.dec n).com (s'.dec n).com ∧ (s.dec n).pos = (s'.dec n).pos ∧
      (s.dec n).needPrime = (s'.dec n).needPrime ∧ (s.dec n).src = (s'.dec n).src ∧
      ((s.dec n).com.live = true → (s.dec n).prev = (s'.dec n).prev) ∧
      ((s.dec n).com.live = false → (s.dec n).needPrime = false)) ∧
    (AlikeCommon (s.val n).com (s'.val n).com ∧ (s.val n).cnt = (s'.val n).cnt ∧ (s.val n).npad = (s'.val n).npad ∧
      (s.val n).bad = (s'.val n).bad ∧ (s.val n).src = (s'.val n).src) ∧
    AlikeCommon (s.tbl n).com (s'.tbl n).com

/-- The pending event constructs unit `n` of type `u`. -/
def Constructing (s : State) (u : UnitKind) (n : Nat) : Prop :=
  ∃ c rest, (s.inbox = .command c :: rest ∨ s.inbox = .edge false c :: rest) ∧ c.unit = u ∧ c.num = n ∧
    constructs (decode c.unit c.ctl) = true

/-- Some encoder is wired to two source ports. -/
def TwoWires (s : State) : Prop := ∃ k p p', p ≠ p' ∧ s.WiredTo p k ∧ s.WiredTo p' k

/-- A candidate is a data symbol. -/
def isData (c : Common) (v : Byte) : Bool :=
  match c.rev v with
  | .data _ => true
  | .pad | .invalid => false

end Sys2Proof.Claims

open Sys2Proof Sys2Proof.Machine Sys2Proof.Claims

/-! ### Encoding -/

/-- R95, the operation map, all eight words on each of the four ports; and `start = 1` wins: what a construction does,
as an operation and at a clock edge, does not depend on `rd` and `adv`. -/
def Obligations.OperationMap : Prop :=
  (decode .enc 0b000#3 = .encNop ∧ decode .enc 0b001#3 = .encAdvance ∧ decode .enc 0b010#3 = .encFront ∧
    decode .enc 0b011#3 = .encPop ∧ decode .enc 0b100#3 = .encConstruct false false ∧
    decode .enc 0b101#3 = .encConstruct false true ∧ decode .enc 0b110#3 = .encConstruct true false ∧
    decode .enc 0b111#3 = .encConstruct true true) ∧
  (decode .dec 0b000#3 = .decNop ∧ decode .dec 0b001#3 = .decAdvance ∧ decode .dec 0b010#3 = .decFront ∧
    decode .dec 0b011#3 = .decPop ∧ decode .dec 0b100#3 = .decConstruct false false ∧
    decode .dec 0b101#3 = .decConstruct false true ∧ decode .dec 0b110#3 = .decConstruct true false ∧
    decode .dec 0b111#3 = .decConstruct true true) ∧
  (decode .val 0b000#3 = .valNop false ∧ decode .val 0b010#3 = .valNop true ∧ decode .val 0b001#3 = .valStep false ∧
    decode .val 0b011#3 = .valStep true ∧ decode .val 0b100#3 = .valConstruct false false ∧
    decode .val 0b101#3 = .valConstruct false true ∧ decode .val 0b110#3 = .valConstruct true false ∧
    decode .val 0b111#3 = .valConstruct true true) ∧
  (decode .tbl 0b000#3 = .tblNop false false ∧ decode .tbl 0b001#3 = .tblNop false true ∧
    decode .tbl 0b010#3 = .tblNop true false ∧ decode .tbl 0b011#3 = .tblNop true true ∧
    decode .tbl 0b100#3 = .tblBuild false false ∧ decode .tbl 0b101#3 = .tblBuild false true ∧
    decode .tbl 0b110#3 = .tblBuild true false ∧ decode .tbl 0b111#3 = .tblBuild true true) ∧
  ∀ rd adv s, exec (.encConstruct rd adv) s = exec (.encConstruct false false) s ∧
    exec (.decConstruct rd adv) s = exec (.decConstruct false false) s ∧
    exec (.valConstruct rd adv) s = exec (.valConstruct false false) s ∧
    exec (.tblBuild rd adv) s = exec (.tblBuild false false) s ∧
    edge (.encConstruct rd adv) s = edge (.encConstruct false false) s ∧
    edge (.decConstruct rd adv) s = edge (.decConstruct false false) s ∧
    edge (.valConstruct rd adv) s = edge (.valConstruct false false) s ∧
    edge (.tblBuild rd adv) s = edge (.tblBuild false false) s

/-- Decoding and encoding are inverse to each other, on control words and on the model's port bytes
(notes/assumptions/5.md); a port byte with a bit set that has no meaning is rejected by name, and so is a word with a
bit above the byte. -/
def Obligations.DecodeAndEncodeAgree : Prop :=
  (∀ i, decode (encode i).1 (encode i).2 = i) ∧
  (∀ u w, encode (decode u w) = (u, w) ∧ (decode u w).unit = u) ∧
  (∀ i, decodePort (encodePort i) = .ok i ∧ decodeTableWord 8 (encodePort i).toNat = some i) ∧
  (∀ b i, decodePort b = .ok i → encodePort i = b) ∧
  (∀ b : Byte, 32 ≤ b.toNat → decodePort b = .error .unusedBits) ∧
  (∀ nbits w, 256 ≤ w % 2 ^ nbits → decodeBits nbits w = .error .tooLong ∧ decodeTableWord nbits w = none)

/-- R97: every control word on every port is performed and none traps as a word, and the bits the map ignores reach
neither an operation nor a clock edge. -/
def Obligations.ReservedBitsAreIgnored : Prop :=
  (∀ (u : UnitKind) (w : Ctl) (s : State), (decode u w).unit = u ∧ ∃ t, exec (decode u w) s = .next t) ∧
  ∀ (u : UnitKind) (w w' : Ctl) (s : State), w.getLsbD 2 = w'.getLsbD 2 →
    (w.getLsbD 2 = true ∨
      match u with
      | .enc | .dec => w = w'
      | .val => w.getLsbD 0 = w'.getLsbD 0
      | .tbl => True) →
    exec (decode u w) s = exec (decode u w') s ∧ edge (decode u w) s = edge (decode u w') s

/-- The model's choice (notes/assumptions/4.md, 5.md, 8.md). What step adds around a command: the pending input is taken,
the driven unit's number and configuration pins hold, the edge is counted, and the busy decoders but the driven one prime
(`settle`), which is nothing where none is. With `rst = 1` reset is performed whatever the command; with nothing pending
the edge comes with `NOP` on every port. An event that would give an encoder two drivers is not performed
(`TwoDriversAreRefused`; notes/assumptions/18.md). -/
def Obligations.StepPerformsThePendingInput : Prop :=
  (∀ s c rest, s.inbox = .command c :: rest → s.contended = false →
    step s = exec (decode c.unit c.ctl)
      (({ s with inbox := rest, port := c.num, cfg := c.cfg, tick := s.tick + 1 } : State).settle
        (if c.unit = .dec then some c.num else none))) ∧
  (∀ s c rest, s.inbox = .edge false c :: rest → s.contended = false →
    step s = edge (decode c.unit c.ctl)
      (({ s with inbox := rest, port := c.num, cfg := c.cfg, tick := s.tick + 1 } : State).settle
        (if c.unit = .dec then some c.num else none))) ∧
  (∀ s c rest, s.inbox = .edge true c :: rest →
    step s = .next ({ s with inbox := rest, port := c.num, cfg := c.cfg, tick := s.tick + 1 } : State).hardReset) ∧
  (∀ s, s.inbox = [] → s.contended = false →
    step s = .next (({ s with tick := s.tick + 1 } : State).settle none)) ∧
  (∀ (s : State) d, (∀ n, d ≠ some n → (s.dec n).needPrime = false) → s.settle d = s) ∧
  (∀ (s : State) nbits w i, decodeTableWord nbits w = some i → (s.withFetchWord nbits w).contended = false →
    step (s.withFetchWord nbits w) = exec i
      (({ s with port := 0, cfg := ⟨true, 0#8, 0#8, 0#8⟩, tick := s.tick + 1 } : State).settle
        (if i.unit = .dec then some 0 else none)))

/-- R14: no operation blocks and none is refused; nor is a clock edge of a unit (a fault is a next state:
notes/assumptions/2.md). A step answers a next state too, where it does not refuse a second driver of an encoder (rules R76,
R272; notes/assumptions/18.md), which it does only where some port is chained to one. -/
def Obligations.NoThirdOutcome : Prop :=
  (∀ i s, ∃ t, exec i s = .next t) ∧ (∀ i s, ∃ t, edge i s = .next t) ∧
  (∀ s, s.contended = false → ∃ t, step s = .next t) ∧
  (∀ s, s.contended = true → step s = .refused .twoDrivers) ∧
  ∀ s : State, (∀ p k, ¬s.WiredTo p k) → (∀ n w rest, s.inbox ≠ .attachDec n w :: rest ∧ s.inbox ≠ .attachVal n w :: rest) →
    s.contended = false

/-! ### The alphabet table -/

/-- R122, the configuration check, on the operands as numbers. -/
def Obligations.ConfigurationCheck : Prop :=
  ∀ a b p : Byte, cfgOk a b p = true ↔
    (∀ v ∈ [a, b, p], v.toNat < 128 ∧ ¬(0x41 ≤ v.toNat ∧ v.toNat ≤ 0x5A) ∧ ¬(0x61 ≤ v.toNat ∧ v.toNat ≤ 0x7A) ∧
      ¬(0x30 ≤ v.toNat ∧ v.toNat ≤ 0x39)) ∧ a ≠ b ∧ a ≠ p ∧ b ≠ p

/-- R120: the check passes exactly when "all 65 symbols are distinct". -/
def Obligations.AcceptedMeansAllSymbolsDistinct : Prop :=
  ∀ c : Common, cfgOk (zext8 c.c62) (zext8 c.c63) (zext8 c.cpad) = true ↔
    (∀ i j, c.fwd i = c.fwd j → i = j) ∧ ∀ i, c.fwd i ≠ c.padSym

/-- R126, the forward map; and a look at `fwd_sym` and `pad_sym` of a live, unfaulted table shows it. -/
def Obligations.ForwardMap : Prop :=
  (∀ (c : Common) (i : Idx),
    (i.toNat ≤ 25 → (c.fwd i).toNat = 0x41 + i.toNat) ∧
    (26 ≤ i.toNat → i.toNat ≤ 51 → (c.fwd i).toNat = 0x61 + (i.toNat - 26)) ∧
    (52 ≤ i.toNat → i.toNat ≤ 61 → (c.fwd i).toNat = 0x30 + (i.toNat - 52)) ∧
    (i.toNat = 62 → c.fwd i = c.c62) ∧ (i.toNat = 63 → c.fwd i = c.c63) ∧ c.padSym = c.cpad) ∧
  ∀ (s : State) (n : Nat) (i : Idx), (s.tbl n).com.live = true → (s.tbl n).com.fault = .none →
    s.answer (.tblFwd n i) = .symbol ((s.tbl n).com.fwd i) ∧ s.answer (.tblPadSym n) = .symbol (s.tbl n).com.cpad

/-- R128, the reverse map of a configuration that passed the check: each case on its own, so their order does not
matter; and what the three pins of a live, unfaulted table show. -/
def Obligations.ReverseMap : Prop :=
  (∀ (c : Common) (v : Byte), cfgOk (zext8 c.c62) (zext8 c.c63) (zext8 c.cpad) = true →
    (128 ≤ v.toNat → c.rev v = .invalid) ∧
    (v = zext8 c.cpad → c.rev v = .pad) ∧
    (∀ k : Nat, k ≤ 25 → v.toNat = 0x41 + k → c.rev v = .data (BitVec.ofNat 6 k)) ∧
    (∀ k : Nat, k ≤ 25 → v.toNat = 0x61 + k → c.rev v = .data (BitVec.ofNat 6 (k + 26))) ∧
    (∀ k : Nat, k ≤ 9 → v.toNat = 0x30 + k → c.rev v = .data (BitVec.ofNat 6 (k + 52))) ∧
    (v = zext8 c.c62 → c.rev v = .data 62#6) ∧
    (v = zext8 c.c63 → c.rev v = .data 63#6) ∧
    (v ≠ zext8 c.cpad → v ≠ zext8 c.c62 → v ≠ zext8 c.c63 → ¬(0x41 ≤ v.toNat ∧ v.toNat ≤ 0x5A) →
      ¬(0x61 ≤ v.toNat ∧ v.toNat ≤ 0x7A) → ¬(0x30 ≤ v.toNat ∧ v.toNat ≤ 0x39) → c.rev v = .invalid)) ∧
  ∀ (s : State) (n : Nat) (v : Byte), (s.tbl n).com.live = true → (s.tbl n).com.fault = .none →
    (∀ i, (s.tbl n).com.rev v = .data i → s.answer (.tblRev n v) = .reverse i false false) ∧
    ((s.tbl n).com.rev v = .pad → s.answer (.tblRev n v) = .reverse 0#6 true false) ∧
    ((s.tbl n).com.rev v = .invalid → s.answer (.tblRev n v) = .reverse 0#6 false true)

/-- R129, the inverse laws and the three counts, of a configuration that passed the check. -/
def Obligations.TableMapsAreInverse : Prop :=
  ∀ c : Common, cfgOk (zext8 c.c62) (zext8 c.c63) (zext8 c.cpad) = true →
    (∀ i, c.rev (zext8 (c.fwd i)) = .data i) ∧ c.rev (zext8 c.padSym) = .pad ∧
    (∀ v i, c.rev v = .data i → zext8 (c.fwd i) = v) ∧ (∀ v, c.rev v = .pad → v = zext8 c.cpad) ∧
    (List.range 256).countP (fun k => isData c (BitVec.ofNat 8 k)) = 64 ∧
    (List.range 256).countP (fun k => c.rev (BitVec.ofNat 8 k) = .pad) = 1 ∧
    (List.range 256).countP (fun k => c.rev (BitVec.ofNat 8 k) = .invalid) = 191 ∧
    (List.range 128).countP (fun k => c.rev (BitVec.ofNat 8 k) = .invalid) = 63

/-- R131: the configuration the source calls URL-safe passes the check, and the six lookups the rule lists. -/
def Obligations.UrlSafeAlphabet : Prop :=
  cfgOk 0x2D#8 0x5F#8 0x2E#8 = true ∧
  ∀ c : Common, c.c62 = 0x2D#7 → c.c63 = 0x5F#7 → c.cpad = 0x2E#7 →
    c.rev 0x2B#8 = .invalid ∧ c.rev 0x2F#8 = .invalid ∧ c.rev 0x3D#8 = .invalid ∧
      c.rev 0x2D#8 = .data 62#6 ∧ c.rev 0x5F#8 = .data 63#6 ∧ c.rev 0x2E#8 = .pad

/-- R121: `BUILD` of a table from any state, accepted or failed (R123), and the same steps as the first part of every
`CONSTRUCT`: what the common registers of the driven unit hold after one that is heard. -/
def Obligations.TableBuild : Prop :=
  ∀ s rd adv,
    (accepted s = true → exec (.tblBuild rd adv) s = .next { s.setTbl s.port ⟨built s⟩ with ret := .done }) ∧
    (accepted s = false → ∃ c, Unbuilt c ∧
      exec (.tblBuild rd adv) s = .next { s.setTbl s.port ⟨c⟩ with ret := .raised .config }) ∧
    (s.cfg.std = true → accepted s = true ∧ built s = ⟨true, .none, 0x2B#7, 0x2F#7, 0x3D#7⟩) ∧
    ∀ i t, constructs i = true → ¬Unheard s i → exec i s = .next t →
      (accepted s = true → t.common i.unit s.port = built s) ∧
      (accepted s = false → Unbuilt (t.common i.unit s.port) ∧ t.ret = .raised .config)

/-- R30, R77: only a construction writes a unit's `live` and table registers, in an operation and at a clock edge. -/
def Obligations.OnlyConstructionWritesTheTable : Prop :=
  ∀ i s t u n, exec i s = .next t ∨ edge i s = .next t → ¬(constructs i = true ∧ Drives s i u n) →
    (t.common u n).live = (s.common u n).live ∧ (t.common u n).c62 = (s.common u n).c62 ∧
      (t.common u n).c63 = (s.common u n).c63 ∧ (t.common u n).cpad = (s.common u n).cpad

/-- R77, R39: the configuration pins are read only by a construction: whatever they hold, any other command does the
same. -/
def Obligations.ConfigurationPinsAreReadByConstructionOnly : Prop :=
  ∀ i s t g, constructs i = false → exec i s = .next t → exec i { s with cfg := g } = .next { t with cfg := g }

/-! ### The packing -/

/-- R68: packing is most significant bit first, in both directions. -/
def Obligations.PackingIsMostSignificantBitFirst : Prop :=
  (∀ b0 b1 b2 : Byte,
    (encIdx0 b0 ++ encIdx1 b0 b1 ++ encIdx2 b1 b2 ++ encIdx3 b2 : BitVec (6 + 6 + 6 + 6)) = b0 ++ b1 ++ b2) ∧
  (∀ i0 i1 i2 i3 : Idx,
    (decByte0 i0 i1 ++ decByte1 i1 i2 ++ decByte2 i2 i3 : BitVec (8 + 8 + 8)) = i0 ++ i1 ++ i2 ++ i3)

/-- R79: the shifts and masks that compute the indices and the bytes. -/
def Obligations.PackingArithmetic : Prop :=
  (∀ prev cur : Byte,
    encIdx0 cur = (cur >>> 2).setWidth 6 ∧
    encIdx1 prev cur = (((prev &&& 0x03#8) <<< 4) ||| (cur >>> 4)).setWidth 6 ∧
    encIdx2 prev cur = (((prev &&& 0x0F#8) <<< 2) ||| (cur >>> 6)).setWidth 6 ∧
    encIdx3 prev = (prev &&& 0x3F#8).setWidth 6) ∧
  (∀ prev cur : Idx,
    decByte0 prev cur = ((prev.setWidth 8) <<< 2) ||| ((cur.setWidth 8) >>> 4) ∧
    decByte1 prev cur = ((prev.setWidth 8) <<< 4) ||| ((cur.setWidth 8) >>> 2) ∧
    decByte2 prev cur = ((prev.setWidth 8) <<< 6) ||| cur.setWidth 8)

/-! ### The encoder -/

/-- R150, R148, R152: the encoder's whole transition table, with `POP` beside `FRONT` and `ADVANCE`: ignored when
faulted, `PREMATURE` when not live, else row by row. The rows at `pos` 0 and 1 leave `pad` as it is, so they answer in
the unreachable states too; the last clause says that no command leads to those. -/
def Obligations.EncoderTransitionTable : Prop :=
  (∀ s i, encStrobed i → (s.enc s.port).com.fault ≠ .none → exec i s = .next { s with ret := .ignored }) ∧
  (∀ s i, encStrobed i → (s.enc s.port).com.fault = .none → (s.enc s.port).com.live = false →
    s.encEmpty s.port = true ∧ exec i s = .next (encFaulted s .premature)) ∧
  (∀ s i t, encStrobed i → exec i s = .next t →
    ((s.enc s.port).pad = true → (s.enc s.port).pos = 2 ∨ (s.enc s.port).pos = 3) →
    ((t.enc s.port).pad = true → (t.enc s.port).pos = 2 ∨ (t.enc s.port).pos = 3)) ∧
  ∀ s : State, (s.enc s.port).com.live = true → (s.enc s.port).com.fault = .none →
    let e := s.enc s.port
    let x := e.src.exhausted
    let cur := e.src.front
    let popped : Source := { e.src with rp := e.src.rp + 1 }
    (e.pos = 0 → x = false →
      EncRow s (e.com.fwd ((cur >>> 2).setWidth 6)) { e with pos := 1, prev := cur, src := popped }) ∧
    (e.pos = 0 → x = true → s.encEmpty s.port = true ∧
      ∀ i, encStrobed i → exec i s = .next (encFaulted s .premature)) ∧
    (e.pos = 1 → x = false →
      EncRow s (e.com.fwd ((((e.prev &&& 0x03#8) <<< 4) ||| (cur >>> 4)).setWidth 6))
        { e with pos := 2, prev := cur, src := popped }) ∧
    (e.pos = 1 → x = true →
      EncRow s (e.com.fwd (((e.prev &&& 0x03#8) <<< 4).setWidth 6)) { e with pos := 2, pad := true }) ∧
    (e.pos = 2 → e.pad = false → x = false →
      EncRow s (e.com.fwd ((((e.prev &&& 0x0F#8) <<< 2) ||| (cur >>> 6)).setWidth 6))
        { e with pos := 3, prev := cur, src := popped }) ∧
    (e.pos = 2 → e.pad = false → x = true →
      EncRow s (e.com.fwd (((e.prev &&& 0x0F#8) <<< 2).setWidth 6)) { e with pos := 3, pad := true }) ∧
    (e.pos = 2 → e.pad = true → EncRow s e.com.cpad { e with pos := 3 }) ∧
    (e.pos = 3 → e.pad = false →
      EncRow s (e.com.fwd ((e.prev &&& 0x3F#8).setWidth 6)) { e with pos := 0, pad := false }) ∧
    (e.pos = 3 → e.pad = true → EncRow s e.com.cpad { e with pos := 0, pad := false })

/-- R142 with R123: `ENC.CONSTRUCT` from any state, accepted or failed. -/
def Obligations.EncoderConstruction : Prop :=
  ∀ s rd adv,
    (accepted s = true → exec (.encConstruct rd adv) s = .next
      { s.setEnc s.port { com := built s, pos := 0, prev := 0x00#8, pad := false, src := (s.enc s.port).src } with
        ret := .done }) ∧
    (accepted s = false → ∃ c p, Unbuilt c ∧ exec (.encConstruct rd adv) s = .next
      { s.setEnc s.port { com := c, pos := 0, prev := p, pad := false, src := (s.enc s.port).src } with
        ret := .raised .config })

/-- R144: `ENC.EMPTY` of an unfaulted encoder; and once there is no more, that lasts until the next construction,
whatever is driven on whichever unit; with a conforming source (rules R62, R63) through whole steps too, whatever their
event. -/
def Obligations.EncoderEmpty : Prop :=
  (∀ (s : State) n, (s.enc n).com.fault = .none →
    ((s.enc n).com.live = false → s.answer (.encEmpty n) = .bit true) ∧
    ((s.enc n).com.live = true →
      s.answer (.encEmpty n) = .bit (decide ((s.enc n).pos = 0 ∧ (s.enc n).src.exhausted = true)))) ∧
  (∀ i s t n, exec i s = .next t → ¬(constructs i = true ∧ Drives s i .enc n) →
    (s.enc n).com.live = false ∨ (s.enc n).pos = 0 ∧ (s.enc n).src.exhausted = true →
    (t.enc n).com.live = (s.enc n).com.live ∧ (t.enc n).pos = (s.enc n).pos ∧ (t.enc n).src = (s.enc n).src) ∧
  ∀ s t n, s.Conforming → step s = .next t → ¬Constructing s .enc n →
    (s.enc n).com.live = false ∨ (s.enc n).pos = 0 ∧ (s.enc n).src.exhausted = true →
    (t.enc n).com.live = false ∨ (t.enc n).pos = 0 ∧ (t.enc n).src.exhausted = true

/-- R27: with a conforming source `pad = 1` implies that the source is exhausted; and `pad = 1` implies that `pos` is 2 or
3. Kept by every operation (none brings back an item), on every encoder, and by every step in which the sources conform
(rules R62, R63), of every live encoder. -/
def Obligations.PaddingFlagMeansInputEnded : Prop :=
  (∀ i s t n, exec i s = .next t →
    ((s.enc n).pad = true → ((s.enc n).pos = 2 ∨ (s.enc n).pos = 3) ∧ (s.enc n).src.exhausted = true) →
    ((t.enc n).pad = true → ((t.enc n).pos = 2 ∨ (t.enc n).pos = 3) ∧ (t.enc n).src.exhausted = true)) ∧
  ∀ s t n, s.Conforming → step s = .next t → (s.enc n).com.live = true →
    ((s.enc n).pad = true → ((s.enc n).pos = 2 ∨ (s.enc n).pos = 3) ∧ (s.enc n).src.exhausted = true) →
    ((t.enc n).pad = true → ((t.enc n).pos = 2 ∨ (t.enc n).pos = 3) ∧ (t.enc n).src.exhausted = true)

/-- R157: over an endless source `EMPTY` is 0 for ever and `pad` is never set, and the `ADVANCE` at `pos` 3 pops
nothing. -/
def Obligations.EndlessSourceNeverPads : Prop :=
  ∀ (s : State) (k : Nat), (s.enc s.port).com.live = true → (s.enc s.port).com.fault = .none →
    (s.enc s.port).src.tail = .endless k → (s.enc s.port).pad = false →
    s.encEmpty s.port = false ∧
    (∃ t, exec .encAdvance s = .next t ∧
      (t.enc s.port).com = (s.enc s.port).com ∧ (t.enc s.port).src.tail = .endless k ∧ (t.enc s.port).pad = false ∧
        (t.enc s.port).pos = (s.enc s.port).pos + 1 ∧ ((s.enc s.port).pos = 3 → (t.enc s.port).src = (s.enc s.port).src) ∧
        ((s.enc s.port).pos ≠ 3 → (t.enc s.port).src.rp = (s.enc s.port).src.rp + 1))

/-- The frame of the encoder's commands: nothing outside the driven encoder and the recorded outcome; `NOP` and
`FRONT` change no cursor register and no source; `ADVANCE` and `POP` leave the source's items and, where they pop
nothing, `prev`. -/
def Obligations.EncoderFrame : Prop :=
  ∀ i s t, i = .encNop ∨ encStrobed i → exec i s = .next t →
    (∀ n, n ≠ s.port → t.enc n = s.enc n) ∧ t.decs = s.decs ∧ t.vals = s.vals ∧ t.tbls = s.tbls ∧
    t.inbox = s.inbox ∧ t.port = s.port ∧ t.cfg = s.cfg ∧ t.tick = s.tick ∧
    (t.enc s.port).com.live = (s.enc s.port).com.live ∧ (t.enc s.port).com.c62 = (s.enc s.port).com.c62 ∧
    (t.enc s.port).com.c63 = (s.enc s.port).com.c63 ∧ (t.enc s.port).com.cpad = (s.enc s.port).com.cpad ∧
    (i = .encNop → t.enc s.port = s.enc s.port) ∧
    (i = .encFront → t.enc s.port =
      { s.enc s.port with com := { (s.enc s.port).com with fault := (t.enc s.port).com.fault } }) ∧
    (t.enc s.port).src.items = (s.enc s.port).src.items ∧ (t.enc s.port).src.tail = (s.enc s.port).src.tail ∧
    ((t.enc s.port).src.rp = (s.enc s.port).src.rp ∧ (t.enc s.port).prev = (s.enc s.port).prev ∨
      (t.enc s.port).src.rp = (s.enc s.port).src.rp + 1 ∧ (s.enc s.port).src.exhausted = false)

/-- R155: draining a constructed encoder over `b` yields `ceil(n/3) * 4` symbols and leaves it drained. -/
def Obligations.EncodedLength : Prop :=
  ∀ (s : State) (n : Nat) (b : List Byte), accepted s = true →
    (s.encodeBytes n b).length = (b.length + 2) / 3 * 4 ∧
      ((State.encDrain n (4 * b.length + 4) (s.encOver n b)).2.enc n).Drained

/-- R156: the tail of the produced sequence, for each remainder of the length by 3. -/
def Obligations.EncodedTail : Prop :=
  ∀ (s : State) (n : Nat) (p : List Byte) (b0 b1 : Byte), accepted s = true → p.length % 3 = 0 →
    (∀ i, (built s).fwd i ≠ (built s).padSym) ∧ (∀ v ∈ s.encodeBytes n p, ∃ i, v = (built s).fwd i) ∧
    s.encodeBytes n (p ++ [b0]) = s.encodeBytes n p ++
      [(built s).fwd ((b0 >>> 2).setWidth 6), (built s).fwd (((b0 &&& 0x03#8) <<< 4).setWidth 6),
        (built s).padSym, (built s).padSym] ∧
    s.encodeBytes n (p ++ [b0, b1]) = s.encodeBytes n p ++
      [(built s).fwd ((b0 >>> 2).setWidth 6),
        (built s).fwd ((((b0 &&& 0x03#8) <<< 4) ||| (b1 >>> 4)).setWidth 6),
        (built s).fwd (((b1 &&& 0x0F#8) <<< 2).setWidth 6), (built s).padSym] ∧
    s.encodeBytes n [] = []

/-! ### The decoder -/

/-- R180: `PRIME` consumes a data symbol and nothing else, and writes `prev` alone. -/
def Obligations.PrimeConsumesOnlyData : Prop :=
  ∀ s n,
    (∀ d, s.decHead n = some (.data d) → s.prime n = decConsumed s n d (s.dec n).pos) ∧
    (s.decHead n = none ∨ s.decHead n = some .pad ∨ s.decHead n = some .invalid → s.prime n = s)

/-- R181, R182: the decoder's whole transition table, with `POP` beside `FRONT` and `ADVANCE`, for a decoder that is not
busy: ignored when faulted, `PREMATURE` when not live, else row by row. The `PRIME` on the wrap is written out: it takes a
data symbol and nothing else. It is the next clock edge's (R110, R280), so `tick`, the model's own count, is one more
(notes/assumptions/13.md). -/
def Obligations.DecoderTransitionTable : Prop :=
  (∀ s i, decStrobed i → (s.dec s.port).needPrime = false → (s.dec s.port).com.fault ≠ .none →
    exec i s = .next { s with ret := .ignored }) ∧
  (∀ s i, decStrobed i → (s.dec s.port).needPrime = false → (s.dec s.port).com.fault = .none →
    (s.dec s.port).com.live = false → s.decEmpty s.port = true ∧ exec i s = .next (decFaulted s .premature)) ∧
  ∀ s : State, (s.dec s.port).com.live = true → (s.dec s.port).com.fault = .none →
    (s.dec s.port).needPrime = false →
    let d := s.dec s.port
    let wrapped (c : Idx) : State := { decConsumed s s.port c 0 with tick := s.tick + 1 }
    (s.decHead s.port = none ∨ s.decHead s.port = some .pad → s.decEmpty s.port = true ∧
      ∀ i, decStrobed i → exec i s = .next (decFaulted s .premature)) ∧
    (s.decHead s.port = some .invalid → s.decEmpty s.port = false ∧
      ∀ i, decStrobed i → exec i s = .next (decFaulted s .malformed)) ∧
    ∀ c, s.decHead s.port = some (.data c) →
      (d.pos = 0 → DecRow s ((d.prev.setWidth 8 <<< 2) ||| (c.setWidth 8 >>> 4)) (decConsumed s s.port c 1)) ∧
      (d.pos = 1 → DecRow s ((d.prev.setWidth 8 <<< 4) ||| (c.setWidth 8 >>> 2)) (decConsumed s s.port c 2)) ∧
      (d.pos = 2 →
        (∀ e, (wrapped c).decHead s.port = some (.data e) →
          DecRow s ((d.prev.setWidth 8 <<< 6) ||| c.setWidth 8) (decConsumed (wrapped c) s.port e 0)) ∧
        ((∀ e, (wrapped c).decHead s.port ≠ some (.data e)) →
          DecRow s ((d.prev.setWidth 8 <<< 6) ||| c.setWidth 8) (wrapped c)))

/-- R172: `DEC.CONSTRUCT` of a decoder that is not busy, from any state, accepted (then it primes, on the next clock edge)
or failed (R123; then it does not); and at the pin level the first of the two edges, after which the pin `busy` is 1. -/
def Obligations.DecoderConstruction : Prop :=
  ∀ s rd adv, (s.dec s.port).needPrime = false →
    (accepted s = true → exec (.decConstruct rd adv) s = .next
      { ({ s.setDec s.port
            { com := built s, pos := 0, prev := 0#6, needPrime := false, src := (s.dec s.port).src } with
          tick := s.tick + 1 } : State).prime s.port with ret := .done } ∧
      edge (.decConstruct rd adv) s = .next
        { s.setDec s.port
            { com := built s, pos := 0, prev := 0#6, needPrime := true, src := (s.dec s.port).src } with
          ret := .done } ∧
      ∀ t, edge (.decConstruct rd adv) s = .next t → t.answer (.busy .dec s.port) = .bit true) ∧
    (accepted s = false → ∃ c p, Unbuilt c ∧ exec (.decConstruct rd adv) s = .next
      { s.setDec s.port { com := c, pos := 0, prev := p, needPrime := false, src := (s.dec s.port).src } with
        ret := .raised .config })

/-- R173: `DEC.EMPTY` of an unfaulted decoder that is not busy; and once it is 1 no command of that decoder but a
construction moves the head it is 1 for; with conforming sources (rules R62, R63) no step does that does not construct it. -/
def Obligations.DecoderEmpty : Prop :=
  (∀ (s : State) n, (s.dec n).com.fault = .none → (s.dec n).needPrime = false →
    ((s.dec n).com.live = false → s.answer (.decEmpty n) = .bit true) ∧
    ((s.dec n).com.live = true →
      s.answer (.decEmpty n) = .bit (decide (s.decHead n = none ∨ s.decHead n = some .pad)))) ∧
  (∀ i s t, i.unit = .dec → constructs i = false → (s.dec s.port).needPrime = false → exec i s = .next t →
    (s.dec s.port).com.live = false ∨ s.decHead s.port = none ∨ s.decHead s.port = some .pad →
    (t.dec s.port).com.live = (s.dec s.port).com.live ∧ (t.dec s.port).src = (s.dec s.port).src ∧ t.encs = s.encs ∧
      t.decHead s.port = s.decHead s.port) ∧
  ∀ s t n, s.Conforming → step s = .next t → ¬Constructing s .dec n → (s.dec n).needPrime = false →
    (s.dec n).com.live = false ∨ s.decHead n = none ∨ s.decHead n = some .pad →
    (t.dec n).com.live = false ∨ t.decHead n = none ∨ t.decHead n = some .pad

/-- R111, R233: a busy decoder primes and is busy no more, whatever the command driven on it, in an operation and at a
clock edge; the command leaves no trace in any register, and a `FRONT` or `POP` is given what the unspecified pin `front`
shows (rule R273); any other command is given nothing (notes/assumptions/11.md). And the micro-step needs no command: whatever
the step is, one with nothing pending, a look, a wiring, an event of another unit or a reset, no decoder that was busy before
it is busy after it; where it is the only busy one, a step with nothing pending primes it and does nothing else. -/
def Obligations.BusyDecoderPrimes : Prop :=
  (∀ i s, i.unit = .dec → (s.dec s.port).needPrime = true →
    ∃ t, exec i s = .next t ∧ edge i s = .next t ∧
      t = { (s.prime s.port).setDec s.port { (s.prime s.port).dec s.port with needPrime := false } with ret := t.ret } ∧
      (i = .decFront ∨ i = .decPop → t.ret = s.answer (.decFront s.port)) ∧
      (¬(i = .decFront ∨ i = .decPop) → t.ret = s.ret) ∧
      s.answer (.busy .dec s.port) = .bit true ∧ t.answer (.busy .dec s.port) = .bit false) ∧
  (∀ s t n, step s = .next t → s.answer (.busy .dec n) = .bit true → t.answer (.busy .dec n) = .bit false) ∧
  ∀ s n, s.inbox = [] → s.contended = false → (s.dec n).needPrime = true →
    (∀ m, m ≠ n → (s.dec m).needPrime = false) →
    let u : State := { s with tick := s.tick + 1 }
    step s = .next ((u.prime n).setDec n { (u.prime n).dec n with needPrime := false })

/-- R110: where a decoder's command leaves a prime owed at its clock edge, that edge and the next one are one operation of
the operation level: whatever is on the decoder's `ctl` at the next one, and where nothing more is pending; where it leaves
none, the one edge is. A `FRONT` or `POP` presented at the next one, against rule R273, is given the unspecified `front`, the
model's own record of which alone then differs. No other decoder is busy here: it would prime at the first of the two
edges. -/
def Obligations.PinLevelRefinesOperationLevel : Prop :=
  (∀ (s t : State) (c c' : Command) (rest : List Input),
    s.inbox = .edge false c :: .edge false c' :: rest → c.unit = .dec →
    c'.unit = .dec → c'.num = c.num → c'.cfg = c.cfg → (∀ m, (s.dec m).needPrime = false) → step s = .next t →
    ((t.dec c.num).needPrime = true → ∃ v v', step t = .next v ∧ step { s with inbox := .command c :: rest } = .next v' ∧
      v' = { v with ret := v'.ret } ∧
      (decode .dec c'.ctl ≠ .decFront → decode .dec c'.ctl ≠ .decPop → v = v')) ∧
    ((t.dec c.num).needPrime = false →
      step s = step { s with inbox := .command c :: .edge false c' :: rest })) ∧
  ∀ (s t : State) (c : Command), s.inbox = [.edge false c] → c.unit = .dec →
    (∀ m, (s.dec m).needPrime = false) → step s = .next t →
    ((t.dec c.num).needPrime = true → step t = step { s with inbox := [.command c] }) ∧
    ((t.dec c.num).needPrime = false → step s = step { s with inbox := [.command c] })

/-- R38: at the operation level no prime is owed between operations. -/
def Obligations.NoPrimeIsOwedBetweenOperations : Prop :=
  ∀ i s t, (∀ n, (s.dec n).needPrime = false) → exec i s = .next t → ∀ n, (t.dec n).needPrime = false

/-- R185: once the head of the source is the padding symbol no command of the decoder but a construction returns a
byte, pops anything or moves the head. -/
def Obligations.PaddingEndsTheByteStream : Prop :=
  ∀ i s t, i.unit = .dec → constructs i = false → (s.dec s.port).needPrime = false →
    s.decHead s.port = some .pad → exec i s = .next t →
    t.decHead s.port = some .pad ∧ (t.dec s.port).src = (s.dec s.port).src ∧ t.encs = s.encs ∧
      (t.dec s.port).pos = (s.dec s.port).pos ∧ (t.dec s.port).prev = (s.dec s.port).prev ∧
      (∀ v, t.ret ≠ .byte v) ∧
      ((s.dec s.port).com.fault = .none → (s.dec s.port).com.live = true →
        s.decEmpty s.port = true ∧ (decStrobed i → t.ret = .raised .premature))

/-- The frame of the decoder's commands: nothing outside the driven decoder, the encoder its port may be wired to, the
recorded outcome and the count of clock edges; `NOP` and `FRONT` of a decoder that is not busy change no cursor
register, no source and no encoder. -/
def Obligations.DecoderFrame : Prop :=
  ∀ i s t, i = .decNop ∨ decStrobed i → exec i s = .next t →
    (∀ n, n ≠ s.port → t.dec n = s.dec n) ∧ t.vals = s.vals ∧ t.tbls = s.tbls ∧ t.inbox = s.inbox ∧
    t.port = s.port ∧ t.cfg = s.cfg ∧ (t.tick = s.tick ∨ t.tick = s.tick + 1) ∧
    (∀ n, (s.dec s.port).src ≠ .encoder n → t.enc n = s.enc n) ∧
    (t.dec s.port).com.live = (s.dec s.port).com.live ∧ (t.dec s.port).com.c62 = (s.dec s.port).com.c62 ∧
    (t.dec s.port).com.c63 = (s.dec s.port).com.c63 ∧ (t.dec s.port).com.cpad = (s.dec s.port).com.cpad ∧
    ((s.dec s.port).needPrime = false →
      (i = .decNop → t.decs = s.decs ∧ t.encs = s.encs ∧ t.tick = s.tick) ∧
      (i = .decFront → t.encs = s.encs ∧ t.tick = s.tick ∧ t.dec s.port =
        { s.dec s.port with com := { (s.dec s.port).com with fault := (t.dec s.port).com.fault } }))

/-- R187: the number of bytes a constructed decoder produces from symbols that a validator constructed alike accepts; and,
of any symbols that are data symbols up to the first padding symbol, if any, the number of R186, the decoder ending
drained. -/
def Obligations.DecodedLength : Prop :=
  (∀ (s : State) (n v : Nat) (t : List Byte), accepted s = true → (s.dec n).needPrime = false →
    s.isValid v t = true →
    (s.decodeSymbols n t).length = 3 * (t.length / 4) - t.countP fun x => (built s).rev x = .pad) ∧
  ∀ (s : State) (n : Nat) (t u : List Byte), accepted s = true → (s.dec n).needPrime = false →
    (∀ v ∈ t, ∃ i, (built s).rev v = .data i) → (∀ v ∈ u.head?, (built s).rev v = .pad) →
    (s.decodeSymbols n (t ++ u)).length = 3 * (t.length / 4) + (t.length % 4 - 1) ∧
      (State.decDrain n ((t ++ u).length + 1) (s.decOver n (t ++ u))).2.DecDrained n

/-- R188: decoding what encoding produces gives the bytes back, for every acceptable configuration. -/
def Obligations.DecodeOfEncodeIsIdentity : Prop :=
  ∀ (s : State) (n m : Nat) (b : List Byte), accepted s = true → (s.dec m).needPrime = false →
    s.decodeSymbols m ((s.encodeBytes n b).map zext8) = b

/-- R279, R75: what a decoder or validator sees and does at its source port: an external source answers for itself, a
chained encoder answers with its `empty` and `front` pins and is advanced by a pop (notes/assumptions/7.md, 10.md). -/
def Obligations.SourcePortPrimitives : Prop :=
  (∀ (s : State) src, s.wireEmpty (.stream src) = decide (src.tail = .ends ∧ src.items.length ≤ src.rp) ∧
    (∀ b, src.items[src.rp]? = some b → s.wireFront (.stream src) = b) ∧
    (∀ k, src.tail = .endless k → src.items[src.rp]? = none →
      s.wireFront (.stream src) = Config.endlessItem k src.rp) ∧
    s.wirePop (.stream src) = s ∧ (Wire.stream src).popped = .stream { src with rp := src.rp + 1 }) ∧
  (∀ (s : State) k, s.answer (.encEmpty k) = .bit (s.wireEmpty (.encoder k)) ∧
    (∀ v : Sym, s.answer (.encFront k) = .symbol v → s.wireFront (.encoder k) = v.setWidth 8) ∧
    (Wire.encoder k).popped = .encoder k ∧
    ∀ t, exec .encAdvance { s with port := k } = .next t →
      s.wirePop (.encoder k) = { t with port := s.port, ret := s.ret })

/-- R279 with R188: a decoder chained to an encoder over `b`, both constructed alike, the encoder first, produces `b`
with no fault, the encoder receiving only `ADVANCE` (notes/assumptions/10.md). -/
def Obligations.ChainedDecoderReturnsTheBytes : Prop :=
  ∀ (s : State) (n m : Nat) (b : List Byte), accepted s = true → (s.dec m).needPrime = false →
    let s1 := (s.encOver n b).setDec m { s.dec m with src := .encoder n }
    let r := State.decDrain m (2 * b.length + 2) (s1.issue m (.decConstruct false false))
    r.1 = b ∧ r.2.DecDrained m ∧ (r.2.enc n).com.fault = .none

/-! ### The validator -/

/-- R204, R210: the validator's whole transition table: ignored when faulted, `PREMATURE` when not live or with nothing to
consume, else row by row. -/
def Obligations.ValidatorTransitionTable : Prop :=
  (∀ s rd, (s.val s.port).com.fault ≠ .none → exec (.valStep rd) s = .next { s with ret := .ignored }) ∧
  (∀ s rd, (s.val s.port).com.fault = .none → (s.val s.port).com.live = false →
    exec (.valStep rd) s = .next (valFaulted s .premature)) ∧
  ∀ (s : State) (rd : Bool), (s.val s.port).com.live = true → (s.val s.port).com.fault = .none →
    let v := s.val s.port
    let h := s.head v.com v.src
    let after (npad : Fin 4) (bad : Bool) : State :=
      { (s.wirePop v.src).setVal s.port
          { v with cnt := v.cnt + 1, npad := npad, bad := bad, src := v.src.popped } with ret := .done }
    (h = none → exec (.valStep rd) s = .next (valFaulted s .premature)) ∧
    (∀ i, h = some (.data i) → v.npad = 0 → exec (.valStep rd) s = .next (after 0 v.bad)) ∧
    (∀ i, h = some (.data i) → v.npad ≠ 0 → exec (.valStep rd) s = .next (after v.npad true)) ∧
    (h = some .pad → v.npad = 0 → exec (.valStep rd) s = .next (after 1 v.bad)) ∧
    (h = some .pad → v.npad = 1 → exec (.valStep rd) s = .next (after 2 v.bad)) ∧
    (h = some .pad → v.npad = 2 → exec (.valStep rd) s = .next (after 3 v.bad)) ∧
    (h = some .pad → v.npad = 3 → exec (.valStep rd) s = .next (after 3 v.bad)) ∧
    (h = some .invalid → exec (.valStep rd) s = .next (after v.npad true))

/-- R202 with R123: `VAL.CONSTRUCT` from any state, accepted or failed. -/
def Obligations.ValidatorConstruction : Prop :=
  ∀ s rd adv,
    (accepted s = true → exec (.valConstruct rd adv) s = .next
      { s.setVal s.port { com := built s, cnt := 0, npad := 0, bad := false, src := (s.val s.port).src } with
        ret := .done }) ∧
    (accepted s = false → ∃ c, Unbuilt c ∧ exec (.valConstruct rd adv) s = .next
      { s.setVal s.port { com := c, cnt := 0, npad := 0, bad := false, src := (s.val s.port).src } with
        ret := .raised .config })

/-- R206: the verdict, on every validator, live or not. -/
def Obligations.ValidatorVerdict : Prop :=
  ∀ (s : State) n, s.answer (.valOk n) = .bit (decide ((s.val n).com.live = true ∧ (s.val n).com.fault = .none ∧
    (s.val n).bad = false ∧ (s.val n).npad ≤ 2 ∧ (s.val n).cnt = 0))

/-- R200: `isValid(t)` is true exactly when `t` is well-formed: no invalid symbol, nothing but padding after padding, at
most two padding symbols, a length that is a multiple of 4. -/
def Obligations.ValidatorDecidesWellFormedness : Prop :=
  ∀ (s : State) (n : Nat) (t : List Byte), accepted s = true →
    (s.isValid n t = true ↔ WellFormedSymbols (built s) t)

/-- R211, validator soundness: what an encoder produces is valid under the same configuration. -/
def Obligations.EncoderOutputIsValid : Prop :=
  ∀ (s : State) (n m : Nat) (b : List Byte), accepted s = true →
    s.isValid m ((s.encodeBytes n b).map zext8) = true

/-- The frame of the validator's and the table's commands. -/
def Obligations.ValidatorAndTableFrame : Prop :=
  (∀ rd s t, exec (.valStep rd) s = .next t →
    (∀ n, n ≠ s.port → t.val n = s.val n) ∧ t.decs = s.decs ∧ t.tbls = s.tbls ∧ t.inbox = s.inbox ∧
    t.port = s.port ∧ t.cfg = s.cfg ∧ t.tick = s.tick ∧
    (∀ n, (s.val s.port).src ≠ .encoder n → t.enc n = s.enc n) ∧
    (t.val s.port).com.live = (s.val s.port).com.live ∧ (t.val s.port).com.c62 = (s.val s.port).com.c62 ∧
    (t.val s.port).com.c63 = (s.val s.port).com.c63 ∧ (t.val s.port).com.cpad = (s.val s.port).com.cpad ∧
    (t.ret ≠ .done → (t.val s.port).cnt = (s.val s.port).cnt ∧ (t.val s.port).npad = (s.val s.port).npad ∧
      (t.val s.port).bad = (s.val s.port).bad ∧ (t.val s.port).src = (s.val s.port).src ∧ t.encs = s.encs)) ∧
  (∀ i rd adv s t, i = .valConstruct rd adv ∨ i = .tblBuild rd adv → exec i s = .next t →
    t.encs = s.encs ∧ t.decs = s.decs ∧ t.inbox = s.inbox ∧ t.port = s.port ∧ t.cfg = s.cfg ∧ t.tick = s.tick ∧
    (t.val s.port).src = (s.val s.port).src ∧
    (∀ n, n ≠ s.port ∨ i.unit ≠ .val → t.val n = s.val n) ∧ (∀ n, n ≠ s.port ∨ i.unit ≠ .tbl → t.tbl n = s.tbl n))

/-! ### All units -/

/-- R153, R183, R208, R132: what `NOP` is on each unit, all its control words, and that it changes nothing but the
recorded outcome, in an operation and at a clock edge. -/
def Obligations.NopChangesNothing : Prop :=
  (decode .enc 0b000#3 = .encNop ∧ decode .dec 0b000#3 = .decNop ∧
    (∀ w : Ctl, w.getLsbD 2 = false → w.getLsbD 0 = false → ∃ rd, decode .val w = .valNop rd) ∧
    (∀ w : Ctl, w.getLsbD 2 = false → ∃ rd adv, decode .tbl w = .tblNop rd adv)) ∧
  (∀ s i, i = .encNop ∨ i = .decNop ∨ (∃ rd, i = .valNop rd) ∨ (∃ rd adv, i = .tblNop rd adv) → edge i s = exec i s) ∧
  (∀ s, exec .encNop s = .next { s with ret := .done }) ∧
  (∀ s, (s.dec s.port).needPrime = false → exec .decNop s = .next { s with ret := .done }) ∧
  (∀ s rd, exec (.valNop rd) s = .next { s with ret := .done }) ∧
  (∀ s rd adv, exec (.tblNop rd adv) s = .next { s with ret := .done })

/-- R225: the exact condition of `PREMATURE` for each of the seven operations, on an unfaulted unit that is not busy. -/
def Obligations.PrematureConditions : Prop :=
  (∀ i s t, encStrobed i → (s.enc s.port).com.fault = .none → exec i s = .next t →
    (t.ret = .raised .premature ↔
      (s.enc s.port).com.live = false ∨ (s.enc s.port).pos = 0 ∧ (s.enc s.port).src.exhausted = true)) ∧
  (∀ i s t, decStrobed i → (s.dec s.port).com.fault = .none → (s.dec s.port).needPrime = false →
    exec i s = .next t →
    (t.ret = .raised .premature ↔
      (s.dec s.port).com.live = false ∨ s.decHead s.port = none ∨ s.decHead s.port = some .pad)) ∧
  (∀ i s t, valStepped i → (s.val s.port).com.fault = .none → exec i s = .next t →
    (t.ret = .raised .premature ↔
      (s.val s.port).com.live = false ∨ s.wireEmpty (s.val s.port).src = true))

/-- R221: the codes, which operations raise which fault and when (`PREMATURE` in full is `PrematureConditions`), and that a
query raises nothing: a look at a pin does to every unit what the same clock edge without it does, and that edge changes no
unit's common registers (a busy decoder primes at it), so no `fault`. -/
def Obligations.FaultCauses : Prop :=
  (FaultCode.bits .none = 0#2 ∧ FaultCode.bits .config = 1#2 ∧ FaultCode.bits .malformed = 2#2 ∧
    FaultCode.bits .premature = 3#2) ∧
  (∀ i s t, ¬Unheard s i → exec i s = .next t →
    (t.ret = .raised .config ↔ constructs i = true ∧ accepted s = false) ∧
    (t.ret = .raised .malformed ↔ decStrobed i ∧ (s.dec s.port).com.fault = .none ∧ (s.dec s.port).com.live = true ∧
      s.decHead s.port = some .invalid) ∧
    (t.ret = .raised .premature → encStrobed i ∨ decStrobed i ∨ valStepped i) ∧
    t.ret ≠ .raised .none) ∧
  (∀ s u q rest, s.inbox = .observe q :: rest → step { s with inbox := [] } = .next u →
    ∃ r, step s = .next { u with inbox := rest, ret := r } ∧ ∀ c, r ≠ .raised c) ∧
  ∀ s t, s.inbox = [] → step s = .next t → ∀ u n, t.common u n = s.common u n

/-- R229: while a unit is faulted every command but a construction is ignored: no register written, no item consumed, no
new fault; `src_pop` is 0 whatever is on `ctl` and `rst`, `ok` is 0, and `live` and `fault` show their registers. (A
faulted decoder is never busy: `StepKeepsInvariant`.) -/
def Obligations.FaultedUnitIgnoresCommands : Prop :=
  ∀ i s, constructs i = false → ¬Unheard s i → (s.common i.unit s.port).fault ≠ .none →
    (∃ r, (r = .ignored ∨ r = .done) ∧ exec i s = .next { s with ret := r } ∧
      ((encStrobed i ∨ decStrobed i ∨ valStepped i) → r = .ignored)) ∧
    (∀ rst w, s.srcPop i.unit s.port rst w = false) ∧
    (i.unit = .val → s.answer (.valOk s.port) = .bit false) ∧
    s.answer (.live i.unit s.port) = .bit (s.common i.unit s.port).live ∧
    s.answer (.fault i.unit s.port) = .code (s.common i.unit s.port).fault.bits

/-- R224: the first fault is kept, and it is sticky: nothing but a construction of that unit changes a fault once set, in
an operation or at a clock edge, whatever unit is driven, and no passage of time. -/
def Obligations.FirstFaultIsKept : Prop :=
  (∀ (c : Common) code, c.fault ≠ .none → c.raise code = c) ∧
  (∀ (c : Common) code, c.fault = .none → c.raise code = { c with fault := code }) ∧
  (∀ i s t u n, exec i s = .next t ∨ edge i s = .next t → (s.common u n).fault ≠ .none →
    ¬(constructs i = true ∧ Drives s i u n) → (t.common u n).fault = (s.common u n).fault) ∧
  ∀ s t u n, s.inbox = [] → step s = .next t → (t.common u n).fault = (s.common u n).fault

/-- R13, R228: an operation that raises a fault writes no register but `fault`, consumes nothing and returns no value; the
one exception is a construction. -/
def Obligations.FaultingOperationWritesOnlyFault : Prop :=
  ∀ i s t c, constructs i = false → ¬Unheard s i → exec i s = .next t → t.ret = .raised c →
    (s.common i.unit s.port).fault = .none ∧
    t = { s.setCommon i.unit s.port { s.common i.unit s.port with fault := c } with ret := .raised c }

/-- R71: `FRONT` is idempotent when it completes: again, with nothing between, it returns the same and changes nothing. -/
def Obligations.FrontIsIdempotent : Prop :=
  (∀ s t v, exec .encFront s = .next t → t.ret = .symbol v → exec .encFront t = .next t) ∧
  (∀ s t v, (s.dec s.port).needPrime = false → exec .decFront s = .next t → t.ret = .byte v →
    exec .decFront t = .next t)

/-- R102 with R65: `src_pop` is 1 exactly when the edge pops the source: what the driven unit's port and every encoder
hold after the edge of each control word. It is 0 while `rst = 1`, on a unit that is faulted or not live, and when the
operation will fault; it is never 1 while the source is empty, and an edge pops one item at most. -/
def Obligations.SourcePopPin : Prop :=
  (∀ (s : State) u n w, s.srcPop u n true w = false) ∧
  (∀ (s : State) u n w, s.busy u n = false → (s.common u n).fault ≠ .none ∨ (s.common u n).live = false →
    s.srcPop u n false w = false) ∧
  (∀ s u w t c, s.busy u s.port = false → edge (decode u w) s = .next t → t.ret = .raised c →
    s.srcPop u s.port false w = false) ∧
  (∀ s t w, edge (decode .enc w) s = .next t →
    (t.enc s.port).src =
      (if s.srcPop .enc s.port false w then (s.enc s.port).src.pop else (s.enc s.port).src) ∧
    (s.srcPop .enc s.port false w = true → (s.enc s.port).src.exhausted = false)) ∧
  (∀ s t w, edge (decode .dec w) s = .next t →
    (t.dec s.port).src =
      (if s.srcPop .dec s.port false w then (s.dec s.port).src.popped else (s.dec s.port).src) ∧
    t.encs = (if s.srcPop .dec s.port false w then s.wirePop (s.dec s.port).src else s).encs ∧
    (s.srcPop .dec s.port false w = true → s.wireEmpty (s.dec s.port).src = false)) ∧
  (∀ s t w, edge (decode .val w) s = .next t →
    (t.val s.port).src =
      (if s.srcPop .val s.port false w then (s.val s.port).src.popped else (s.val s.port).src) ∧
    t.encs = (if s.srcPop .val s.port false w then s.wirePop (s.val s.port).src else s).encs ∧
    (s.srcPop .val s.port false w = true → s.wireEmpty (s.val s.port).src = false))

/-- R242: an operation leaves every unit but the driven one, and the encoder its source port may be wired to, as it
is. -/
def Obligations.OtherUnitsAreUntouched : Prop :=
  ∀ i s t, exec i s = .next t ∨ edge i s = .next t →
    (∀ n, ¬Drives s i .enc n → (i.unit = .dec → (s.dec s.port).src ≠ .encoder n) →
      (i.unit = .val → (s.val s.port).src ≠ .encoder n) → t.enc n = s.enc n) ∧
    (∀ n, ¬Drives s i .dec n → t.dec n = s.dec n) ∧ (∀ n, ¬Drives s i .val n → t.val n = s.val n) ∧
    (∀ n, ¬Drives s i .tbl n → t.tbl n = s.tbl n) ∧ t.inbox = s.inbox ∧ t.port = s.port ∧ t.cfg = s.cfg

/-- R242, two runs: what an operation does to the driven unit and what it gives back depend on that unit, on the encoder
its source port may be wired to and on the pins, and on no other unit. -/
def Obligations.OutcomeDependsOnTheDrivenUnitAlone : Prop :=
  ∀ (i : Instr) (s s' t t' : State), s.port = s'.port → s.cfg = s'.cfg → s.tick = s'.tick → s.ret = s'.ret →
    exec i s = .next t → exec i s' = .next t' →
    (i.unit = .enc → s.enc s.port = s'.enc s.port → t.ret = t'.ret ∧ t.enc s.port = t'.enc s.port) ∧
    (i.unit = .dec → s.dec s.port = s'.dec s.port → (∀ k, (s.dec s.port).src = .encoder k → s.enc k = s'.enc k) →
      t.ret = t'.ret ∧ t.dec s.port = t'.dec s.port ∧ t.tick = t'.tick ∧
        ∀ k, (s.dec s.port).src = .encoder k → t.enc k = t'.enc k) ∧
    (i.unit = .val → s.val s.port = s'.val s.port → (∀ k, (s.val s.port).src = .encoder k → s.enc k = s'.enc k) →
      t.ret = t'.ret ∧ t.val s.port = t'.val s.port ∧
        ∀ k, (s.val s.port).src = .encoder k → t.enc k = t'.enc k) ∧
    (i.unit = .tbl → s.tbl s.port = s'.tbl s.port → t.ret = t'.ret ∧ t.tbl s.port = t'.tbl s.port)

/-- R40: the registers that reset leaves unspecified in one encoder or decoder show in no operation before a construction
writes them: with other values there, while it is not live, every command on whichever unit gives back the same and leaves
the same machine, but for those registers; and after a construction that passes the check it is the same unit. Units of
every type together, looks, clock edges and whole steps are `UnspecifiedRegistersNeverShow`. -/
def Obligations.UnspecifiedRegistersAreNotObserved : Prop :=
  (∀ (i : Instr) (s t t' : State) (n : Nat) (p : Byte) (a b q : Sym), (s.enc n).com.live = false →
    exec i s = .next t →
    exec i (s.setEnc n { s.enc n with prev := p, com := { (s.enc n).com with c62 := a, c63 := b, cpad := q } }) =
      .next t' →
    t.ret = t'.ret ∧ t.decs = t'.decs ∧ t.vals = t'.vals ∧ t.tbls = t'.tbls ∧
      (t.enc n).com.live = (t'.enc n).com.live ∧ (t.enc n).com.fault = (t'.enc n).com.fault ∧
      (t.enc n).pos = (t'.enc n).pos ∧ (t.enc n).pad = (t'.enc n).pad ∧ (t.enc n).src = (t'.enc n).src ∧
      (∀ m, m ≠ n → t.enc m = t'.enc m) ∧
      ((t.enc n).com.live = true → t.enc n = t'.enc n)) ∧
  (∀ (i : Instr) (s t t' : State) (n : Nat) (p : Idx) (a b q : Sym), (s.dec n).com.live = false →
    (s.dec n).needPrime = false → exec i s = .next t →
    exec i (s.setDec n { s.dec n with prev := p, com := { (s.dec n).com with c62 := a, c63 := b, cpad := q } }) =
      .next t' →
    t.ret = t'.ret ∧ t.encs = t'.encs ∧ t.vals = t'.vals ∧ t.tbls = t'.tbls ∧
      (t.dec n).com.live = (t'.dec n).com.live ∧ (t.dec n).com.fault = (t'.dec n).com.fault ∧
      (t.dec n).pos = (t'.dec n).pos ∧ (t.dec n).needPrime = (t'.dec n).needPrime ∧ (t.dec n).src = (t'.dec n).src ∧
      (∀ m, m ≠ n → t.dec m = t'.dec m) ∧
      ((t.dec n).com.live = true → t.dec n = t'.dec n))

/-! ### Reset and the invariant -/

/-- R40: what the spec says every unit holds after reset. Nothing is said of `prev`, `c62`, `c63`, `cpad`, which it leaves
unspecified. -/
def Obligations.ResetState : Prop :=
  ∀ n, (∀ u, (State.reset.common u n).live = false ∧ (State.reset.common u n).fault = .none) ∧
    (State.reset.enc n).pos = 0 ∧ (State.reset.enc n).pad = false ∧
    (State.reset.dec n).pos = 0 ∧ (State.reset.dec n).needPrime = false ∧
    (State.reset.val n).cnt = 0 ∧ (State.reset.val n).npad = 0 ∧ (State.reset.val n).bad = false ∧
    State.reset.answer (.encEmpty n) = .bit true ∧ State.reset.answer (.decEmpty n) = .bit true ∧
    State.reset.answer (.valOk n) = .bit false

/-- R260: a rising edge with `rst = 1` gives every unit the reset values, whatever the control word and from whatever
state; no source item is consumed, no fault raised and any cleared. -/
def Obligations.HardwareReset : Prop :=
  ∀ s c rest, s.inbox = .edge true c :: rest → ∃ t, step s = .next t ∧ t.inbox = rest ∧ t.ret = .nothing ∧
    ∀ n, (∀ u, (t.common u n).live = false ∧ (t.common u n).fault = .none) ∧
      (t.enc n).pos = 0 ∧ (t.enc n).pad = false ∧ (t.enc n).src = (s.enc n).src ∧
      (t.dec n).pos = 0 ∧ (t.dec n).needPrime = false ∧ (t.dec n).src = (s.dec n).src ∧
      (t.val n).cnt = 0 ∧ (t.val n).npad = 0 ∧ (t.val n).bad = false ∧ (t.val n).src = (s.val n).src

/-- The reset state meets the invariant. -/
def Obligations.ResetMeetsInvariant : Prop := State.reset.Inv

/-- Every step keeps the invariant: a live unit's table passed the check and its fault is not `CONFIG`, `pad` only at `pos` 2
and 3, a prime owed only at a group boundary of a live, unfaulted decoder, the faults each unit type can raise, a unit
that is not live with its cursor at the reset values (rules R20, R27, R28, R30, R38, R40, R123, R221), no encoder wired to
two source ports (rule R272). -/
def Obligations.StepKeepsInvariant : Prop :=
  ∀ s t : State, s.Inv → step s = .next t → t.Inv

/-- R40: nothing shows the registers that reset leaves unspecified (notes/assumptions/1.md). Two states alike but for
those registers of units that are not live, of every type, answer every look alike, and every operation, every clock edge
and every step takes them to two such states again: what comes back and every register but those are the same, and a unit
that has become live is the same in every register; and a step is refused from both or from neither. -/
def Obligations.UnspecifiedRegistersNeverShow : Prop :=
  (∀ s s' q, Alike s s' → s.answer q = s'.answer q) ∧
  (∀ i s s' t t', Alike s s' → exec i s = .next t → exec i s' = .next t' → Alike t t') ∧
  (∀ i s s' t t', Alike s s' → edge i s = .next t → edge i s' = .next t' → Alike t t') ∧
  (∀ s s' t t', Alike s s' → step s = .next t → step s' = .next t' → Alike t t') ∧
  ∀ s s', Alike s s' → (step s = .refused .twoDrivers ↔ step s' = .refused .twoDrivers)

/-! ### One driver -/

/-- R272, R76, R271, 93 U1: a second driver of an encoder is refused by name, and nothing else is. The conditions in full: two
source ports wired to it, before the event or by it; the consumer popping the source of a unit in use; a command of the
consumer at an edge at which a prime advances the encoder. And so an encoder takes one operation at most at a clock edge:
what the command on it does, or one `ADVANCE` by the wire, or none (notes/assumptions/18.md). -/
def Obligations.TwoDriversAreRefused : Prop :=
  (∀ s r, step s = .refused r → r = .twoDrivers) ∧
  (∀ s c rest, s.inbox = .command c :: rest ∨ s.inbox = .edge false c :: rest →
    (step s = .refused .twoDrivers ↔ TwoWires s ∨ c.unit = .enc ∧
      ((c.ctl.getLsbD 2 = false ∧ c.ctl.getLsbD 0 = true ∧
          ∃ p, s.WiredTo p c.num ∧ (s.common p.1 p.2).live = true) ∨
        (c.ctl ≠ 0#3 ∧ ∃ m i, (s.dec m).needPrime = true ∧ s.WiredTo (.dec, m) c.num ∧
          State.decHead { s with tick := s.tick + 1 } m = some (.data i))))) ∧
  (∀ s, s.inbox = [] ∨ (∃ q rest, s.inbox = .observe q :: rest) ∨ (∃ n src rest, s.inbox = .attachEnc n src :: rest) →
    (step s = .refused .twoDrivers ↔ TwoWires s)) ∧
  (∀ s n w rest, s.inbox = .attachDec n w :: rest →
    (step s = .refused .twoDrivers ↔ TwoWires (s.setDec n { s.dec n with src := w }))) ∧
  (∀ s n w rest, s.inbox = .attachVal n w :: rest →
    (step s = .refused .twoDrivers ↔ TwoWires (s.setVal n { s.val n with src := w }))) ∧
  (∀ s t k, step s = .next t → (s.inbox = [] ∨ ∃ c rest, s.inbox = .edge false c :: rest) →
    (∀ c rest, s.inbox = .edge false c :: rest → c.unit = .enc → c.num = k → c.ctl = 0#3) →
    t.enc k = s.enc k ∨ t.enc k = (s.enc k).advanced) ∧
  ∀ s t c rest, step s = .next t → s.inbox = .edge false c :: rest → c.unit = .enc → c.ctl ≠ 0#3 →
    ∃ u, edge (decode .enc c.ctl) { s with inbox := rest, port := c.num, cfg := c.cfg, tick := s.tick + 1 } = .next u ∧
      t.enc c.num = u.enc c.num
end

