-- ==== Sys2Proof/Laws/State.lean ====
section
/-! SUPPORT. What each update of the state does to each field, by rfl, and the units read back after a unit is set. -/

namespace Sys2Proof.Machine

/-! ### Units by number -/

section Units

variable {α : Type} {dflt : α} {P : α → Prop}

@[simp] theorem unitGet_nil (n : Nat) : unitGet dflt [] n = dflt := rfl

@[simp] theorem unitGet_unitSet_same (l : List α) (n : Nat) (v : α) : unitGet dflt (unitSet dflt l n v) n = v := by
  induction n generalizing l with
  | zero => cases l <;> rfl
  | succ n ih => cases l <;> simpa [unitSet, unitGet] using ih _

theorem unitGet_unitSet_other (l : List α) {m n : Nat} (v : α) (h : m ≠ n) :
    unitGet dflt (unitSet dflt l n v) m = unitGet dflt l m := by
  induction n generalizing l m with
  | zero =>
    obtain ⟨m, rfl⟩ := Nat.exists_eq_succ_of_ne_zero h
    cases l <;> rfl
  | succ n ih =>
    cases m with
    | zero => cases l <;> rfl
    | succ m =>
      have h' : m ≠ n := fun e => h (by rw [e])
      cases l with
      | nil => simpa [unitSet, unitGet] using ih [] h'
      | cons x xs => simpa [unitSet, unitGet] using ih xs h'

@[simp] theorem unitSet_unitSet (l : List α) (n : Nat) (v w : α) :
    unitSet dflt (unitSet dflt l n v) n w = unitSet dflt l n w := by
  induction n generalizing l with
  | zero => cases l <;> rfl
  | succ n ih => cases l <;> simp [unitSet, ih]

/-- A property of every listed unit and of a unit in reset state is one of every unit by number. -/
theorem unitGet_of_all (h0 : P dflt) {l : List α} (h : ∀ x ∈ l, P x) (n : Nat) : P (unitGet dflt l n) := by
  induction l generalizing n with
  | nil => exact h0
  | cons x xs ih =>
    cases n with
    | zero => exact h x (by simp)
    | succ n => exact ih (fun y hy => h y (by simp [hy])) n

/-- A property of every listed unit is kept when a unit that has it is set. -/
theorem unitSet_all (h0 : P dflt) {l : List α} (h : ∀ x ∈ l, P x) (n : Nat) {v : α} (hv : P v) :
    ∀ x ∈ unitSet dflt l n v, P x := by
  induction l generalizing n with
  | nil =>
    induction n with
    | zero => simpa [unitSet] using hv
    | succ n ih => simpa [unitSet] using ⟨h0, ih⟩
  | cons y ys ih =>
    have hys : ∀ x ∈ ys, P x := fun x hx => h x (by simp [hx])
    cases n with
    | zero => simpa [unitSet] using ⟨hv, hys⟩
    | succ n => simpa [unitSet] using ⟨h y (by simp), ih hys n⟩

/-- A property every changed unit has is one of every listed unit after the change. -/
theorem unitMap_all {f : Nat → α → α} (hf : ∀ k x, P (f k x)) (k : Nat) (l : List α) :
    ∀ x ∈ unitMap f k l, P x := by
  induction l generalizing k with
  | nil => simp [unitMap]
  | cons y ys ih => simpa [unitMap] using ⟨hf k y, ih (k + 1)⟩

/-- A unit read after a change of every listed unit: it is changed, or it was not listed. -/
theorem unitGet_unitMap (f : Nat → α → α) (k : Nat) (l : List α) (n : Nat) :
    unitGet dflt (unitMap f k l) n = f (k + n) (unitGet dflt l n) ∨
      (unitGet dflt (unitMap f k l) n = dflt ∧ unitGet dflt l n = dflt) := by
  induction l generalizing k n with
  | nil => exact .inr ⟨rfl, rfl⟩
  | cons y ys ih =>
    cases n with
    | zero => exact .inl rfl
    | succ n => simpa [unitMap, unitGet, Nat.add_assoc, Nat.add_comm 1] using ih (k + 1) n

end Units

variable (s : State) (n m : Nat) (e : Enc) (d : Dec) (v : Val) (t : Tbl) (r : Ret)

/-! ### `setEnc` -/

@[simp] theorem State.setEnc_decs : (s.setEnc n e).decs = s.decs := rfl
@[simp] theorem State.setEnc_vals : (s.setEnc n e).vals = s.vals := rfl
@[simp] theorem State.setEnc_tbls : (s.setEnc n e).tbls = s.tbls := rfl
@[simp] theorem State.setEnc_inbox : (s.setEnc n e).inbox = s.inbox := rfl
@[simp] theorem State.setEnc_port : (s.setEnc n e).port = s.port := rfl
@[simp] theorem State.setEnc_cfg : (s.setEnc n e).cfg = s.cfg := rfl
@[simp] theorem State.setEnc_ret : (s.setEnc n e).ret = s.ret := rfl
@[simp] theorem State.setEnc_tick : (s.setEnc n e).tick = s.tick := rfl
@[simp] theorem State.setEnc_dec : (s.setEnc n e).dec m = s.dec m := rfl
@[simp] theorem State.setEnc_val : (s.setEnc n e).val m = s.val m := rfl
@[simp] theorem State.setEnc_tbl : (s.setEnc n e).tbl m = s.tbl m := rfl
@[simp] theorem State.setEnc_enc_same : (s.setEnc n e).enc n = e := unitGet_unitSet_same _ _ _
@[simp] theorem State.setEnc_setEnc (e' : Enc) : (s.setEnc n e).setEnc n e' = s.setEnc n e' := by
  simp [State.setEnc]
theorem State.setEnc_enc_other {n m : Nat} (h : m ≠ n) : (s.setEnc n e).enc m = s.enc m :=
  unitGet_unitSet_other _ _ h

/-! ### `setDec` -/

@[simp] theorem State.setDec_encs : (s.setDec n d).encs = s.encs := rfl
@[simp] theorem State.setDec_vals : (s.setDec n d).vals = s.vals := rfl
@[simp] theorem State.setDec_tbls : (s.setDec n d).tbls = s.tbls := rfl
@[simp] theorem State.setDec_inbox : (s.setDec n d).inbox = s.inbox := rfl
@[simp] theorem State.setDec_port : (s.setDec n d).port = s.port := rfl
@[simp] theorem State.setDec_cfg : (s.setDec n d).cfg = s.cfg := rfl
@[simp] theorem State.setDec_ret : (s.setDec n d).ret = s.ret := rfl
@[simp] theorem State.setDec_tick : (s.setDec n d).tick = s.tick := rfl
@[simp] theorem State.setDec_enc : (s.setDec n d).enc m = s.enc m := rfl
@[simp] theorem State.setDec_val : (s.setDec n d).val m = s.val m := rfl
@[simp] theorem State.setDec_tbl : (s.setDec n d).tbl m = s.tbl m := rfl
@[simp] theorem State.setDec_dec_same : (s.setDec n d).dec n = d := unitGet_unitSet_same _ _ _
@[simp] theorem State.setDec_setDec (d' : Dec) : (s.setDec n d).setDec n d' = s.setDec n d' := by
  simp [State.setDec]
theorem State.setDec_dec_other {n m : Nat} (h : m ≠ n) : (s.setDec n d).dec m = s.dec m :=
  unitGet_unitSet_other _ _ h

/-! ### `setVal` -/

@[simp] theorem State.setVal_encs : (s.setVal n v).encs = s.encs := rfl
@[simp] theorem State.setVal_decs : (s.setVal n v).decs = s.decs := rfl
@[simp] theorem State.setVal_tbls : (s.setVal n v).tbls = s.tbls := rfl
@[simp] theorem State.setVal_inbox : (s.setVal n v).inbox = s.inbox := rfl
@[simp] theorem State.setVal_port : (s.setVal n v).port = s.port := rfl
@[simp] theorem State.setVal_cfg : (s.setVal n v).cfg = s.cfg := rfl
@[simp] theorem State.setVal_ret : (s.setVal n v).ret = s.ret := rfl
@[simp] theorem State.setVal_tick : (s.setVal n v).tick = s.tick := rfl
@[simp] theorem State.setVal_enc : (s.setVal n v).enc m = s.enc m := rfl
@[simp] theorem State.setVal_dec : (s.setVal n v).dec m = s.dec m := rfl
@[simp] theorem State.setVal_tbl : (s.setVal n v).tbl m = s.tbl m := rfl
@[simp] theorem State.setVal_val_same : (s.setVal n v).val n = v := unitGet_unitSet_same _ _ _
@[simp] theorem State.setVal_setVal (v' : Val) : (s.setVal n v).setVal n v' = s.setVal n v' := by
  simp [State.setVal]
theorem State.setVal_val_other {n m : Nat} (h : m ≠ n) : (s.setVal n v).val m = s.val m :=
  unitGet_unitSet_other _ _ h

/-! ### `setTbl` -/

@[simp] theorem State.setTbl_encs : (s.setTbl n t).encs = s.encs := rfl
@[simp] theorem State.setTbl_decs : (s.setTbl n t).decs = s.decs := rfl
@[simp] theorem State.setTbl_vals : (s.setTbl n t).vals = s.vals := rfl
@[simp] theorem State.setTbl_inbox : (s.setTbl n t).inbox = s.inbox := rfl
@[simp] theorem State.setTbl_port : (s.setTbl n t).port = s.port := rfl
@[simp] theorem State.setTbl_cfg : (s.setTbl n t).cfg = s.cfg := rfl
@[simp] theorem State.setTbl_ret : (s.setTbl n t).ret = s.ret := rfl
@[simp] theorem State.setTbl_tick : (s.setTbl n t).tick = s.tick := rfl
@[simp] theorem State.setTbl_enc : (s.setTbl n t).enc m = s.enc m := rfl
@[simp] theorem State.setTbl_dec : (s.setTbl n t).dec m = s.dec m := rfl
@[simp] theorem State.setTbl_val : (s.setTbl n t).val m = s.val m := rfl
@[simp] theorem State.setTbl_tbl_same : (s.setTbl n t).tbl n = t := unitGet_unitSet_same _ _ _
theorem State.setTbl_tbl_other {n m : Nat} (h : m ≠ n) : (s.setTbl n t).tbl m = s.tbl m :=
  unitGet_unitSet_other _ _ h

/-! ### `withRet` -/

@[simp] theorem State.withRet_encs : (s.withRet r).encs = s.encs := rfl
@[simp] theorem State.withRet_decs : (s.withRet r).decs = s.decs := rfl
@[simp] theorem State.withRet_vals : (s.withRet r).vals = s.vals := rfl
@[simp] theorem State.withRet_tbls : (s.withRet r).tbls = s.tbls := rfl
@[simp] theorem State.withRet_inbox : (s.withRet r).inbox = s.inbox := rfl
@[simp] theorem State.withRet_port : (s.withRet r).port = s.port := rfl
@[simp] theorem State.withRet_cfg : (s.withRet r).cfg = s.cfg := rfl
@[simp] theorem State.withRet_tick : (s.withRet r).tick = s.tick := rfl
@[simp] theorem State.withRet_ret : (s.withRet r).ret = r := rfl
@[simp] theorem State.withRet_enc : (s.withRet r).enc m = s.enc m := rfl
@[simp] theorem State.withRet_dec : (s.withRet r).dec m = s.dec m := rfl
@[simp] theorem State.withRet_val : (s.withRet r).val m = s.val m := rfl
@[simp] theorem State.withRet_tbl : (s.withRet r).tbl m = s.tbl m := rfl

/-! ### `nextEdge`, `present`, `await` -/

@[simp] theorem State.nextEdge_tick : s.nextEdge.tick = s.tick + 1 := rfl
@[simp] theorem State.nextEdge_encs : s.nextEdge.encs = s.encs := rfl
@[simp] theorem State.nextEdge_decs : s.nextEdge.decs = s.decs := rfl
@[simp] theorem State.nextEdge_vals : s.nextEdge.vals = s.vals := rfl
@[simp] theorem State.nextEdge_tbls : s.nextEdge.tbls = s.tbls := rfl
@[simp] theorem State.nextEdge_ret : s.nextEdge.ret = s.ret := rfl
@[simp] theorem State.nextEdge_port : s.nextEdge.port = s.port := rfl
@[simp] theorem State.nextEdge_cfg : s.nextEdge.cfg = s.cfg := rfl
@[simp] theorem State.nextEdge_inbox : s.nextEdge.inbox = s.inbox := rfl
@[simp] theorem State.nextEdge_enc : s.nextEdge.enc m = s.enc m := rfl
@[simp] theorem State.nextEdge_dec : s.nextEdge.dec m = s.dec m := rfl
@[simp] theorem State.nextEdge_val : s.nextEdge.val m = s.val m := rfl
@[simp] theorem State.nextEdge_tbl : s.nextEdge.tbl m = s.tbl m := rfl

variable (c : Command) (rest : List Input)

@[simp] theorem State.present_encs : (s.present c rest).encs = s.encs := rfl
@[simp] theorem State.present_decs : (s.present c rest).decs = s.decs := rfl
@[simp] theorem State.present_vals : (s.present c rest).vals = s.vals := rfl
@[simp] theorem State.present_tbls : (s.present c rest).tbls = s.tbls := rfl
@[simp] theorem State.present_inbox : (s.present c rest).inbox = rest := rfl
@[simp] theorem State.present_port : (s.present c rest).port = c.num := rfl
@[simp] theorem State.present_cfg : (s.present c rest).cfg = c.cfg := rfl
@[simp] theorem State.present_ret : (s.present c rest).ret = s.ret := rfl
@[simp] theorem State.present_tick : (s.present c rest).tick = s.tick + 1 := rfl
@[simp] theorem State.present_enc : (s.present c rest).enc m = s.enc m := rfl
@[simp] theorem State.present_dec : (s.present c rest).dec m = s.dec m := rfl
@[simp] theorem State.present_val : (s.present c rest).val m = s.val m := rfl
@[simp] theorem State.present_tbl : (s.present c rest).tbl m = s.tbl m := rfl

@[simp] theorem State.await_encs : (s.await rest).encs = s.encs := rfl
@[simp] theorem State.await_decs : (s.await rest).decs = s.decs := rfl
@[simp] theorem State.await_vals : (s.await rest).vals = s.vals := rfl
@[simp] theorem State.await_tbls : (s.await rest).tbls = s.tbls := rfl
@[simp] theorem State.await_inbox : (s.await rest).inbox = rest := rfl
@[simp] theorem State.await_port : (s.await rest).port = s.port := rfl
@[simp] theorem State.await_cfg : (s.await rest).cfg = s.cfg := rfl
@[simp] theorem State.await_ret : (s.await rest).ret = s.ret := rfl
@[simp] theorem State.await_tick : (s.await rest).tick = s.tick + 1 := rfl
@[simp] theorem State.await_enc : (s.await rest).enc m = s.enc m := rfl
@[simp] theorem State.await_dec : (s.await rest).dec m = s.dec m := rfl
@[simp] theorem State.await_val : (s.await rest).val m = s.val m := rfl
@[simp] theorem State.await_tbl : (s.await rest).tbl m = s.tbl m := rfl

/-! ### Common registers -/

@[simp] theorem Common.raise_live (c : Common) (f : FaultCode) : (c.raise f).live = c.live := rfl
@[simp] theorem Common.raise_c62 (c : Common) (f : FaultCode) : (c.raise f).c62 = c.c62 := rfl
@[simp] theorem Common.raise_c63 (c : Common) (f : FaultCode) : (c.raise f).c63 = c.c63 := rfl
@[simp] theorem Common.raise_cpad (c : Common) (f : FaultCode) : (c.raise f).cpad = c.cpad := rfl
@[simp] theorem Common.raise_fault (c : Common) (f : FaultCode) : (c.raise f).fault = c.fault.latch f := rfl

@[simp] theorem Common.clearFault_live (c : Common) : c.clearFault.live = c.live := rfl
@[simp] theorem Common.clearFault_fault (c : Common) : c.clearFault.fault = .none := rfl
@[simp] theorem Common.clearFault_c62 (c : Common) : c.clearFault.c62 = c.c62 := rfl
@[simp] theorem Common.clearFault_c63 (c : Common) : c.clearFault.c63 = c.c63 := rfl
@[simp] theorem Common.clearFault_cpad (c : Common) : c.clearFault.cpad = c.cpad := rfl

@[simp] theorem Common.undefTable_live (c : Common) (k : Nat) (u : UnitKind) (n : Nat) :
    (c.undefTable k u n).live = c.live := rfl
@[simp] theorem Common.undefTable_fault (c : Common) (k : Nat) (u : UnitKind) (n : Nat) :
    (c.undefTable k u n).fault = c.fault := rfl

@[simp] theorem Common.hardReset_live (c : Common) (k : Nat) (u : UnitKind) (n : Nat) :
    (c.hardReset k u n).live = false := rfl
@[simp] theorem Common.hardReset_fault (c : Common) (k : Nat) (u : UnitKind) (n : Nat) :
    (c.hardReset k u n).fault = .none := rfl

@[simp] theorem FaultCode.latch_none (f : FaultCode) : FaultCode.latch .none f = f := rfl

theorem FaultCode.latch_kept {old : FaultCode} (h : old ≠ .none) (f : FaultCode) : old.latch f = old := by
  simp [FaultCode.latch, h]

@[simp] theorem State.common_enc : s.common .enc n = (s.enc n).com := rfl
@[simp] theorem State.common_dec : s.common .dec n = (s.dec n).com := rfl
@[simp] theorem State.common_val : s.common .val n = (s.val n).com := rfl
@[simp] theorem State.common_tbl : s.common .tbl n = (s.tbl n).com := rfl

@[simp] theorem State.setCommon_enc (k : Common) : s.setCommon .enc n k = s.setEnc n { s.enc n with com := k } := rfl
@[simp] theorem State.setCommon_dec (k : Common) : s.setCommon .dec n k = s.setDec n { s.dec n with com := k } := rfl
@[simp] theorem State.setCommon_val (k : Common) : s.setCommon .val n k = s.setVal n { s.val n with com := k } := rfl
@[simp] theorem State.setCommon_tbl (k : Common) : s.setCommon .tbl n k = s.setTbl n { s.tbl n with com := k } := rfl

end Sys2Proof.Machine
end

