-- ==== Sys2Proof/Laws/Operands.lean ====
section
/-! SUPPORT. The combinational functions as arithmetic on numbers, and the alphabet maps of an accepted configuration. -/

namespace Sys2Proof.Machine

/-! ### The packing as arithmetic (rules R68, R79) -/

@[simp] theorem encIdx0_toNat (cur : Byte) : (encIdx0 cur).toNat = cur.toNat / 4 := by
  have := cur.isLt
  simp [encIdx0, BitVec.extractLsb'_toNat, Nat.shiftRight_eq_div_pow]
  omega

/-- Concatenation as arithmetic, at any width the two parts add up to. -/
theorem append_toNat {m n k : Nat} (x : BitVec m) (y : BitVec n) (h : m + n = k) :
    (BitVec.cast h (x ++ y)).toNat = x.toNat * 2 ^ n + y.toNat := by
  rw [BitVec.toNat_cast, BitVec.toNat_append, ← Nat.shiftLeft_add_eq_or_of_lt y.isLt, Nat.shiftLeft_eq]

@[simp] theorem encIdx1_toNat (prev cur : Byte) :
    (encIdx1 prev cur).toNat = prev.toNat % 4 * 16 + cur.toNat / 16 := by
  have := cur.isLt
  refine (append_toNat (prev.extractLsb' 0 2) (cur.extractLsb' 4 4) rfl).trans ?_
  simp [BitVec.extractLsb'_toNat, Nat.shiftRight_eq_div_pow]
  omega

@[simp] theorem encIdx2_toNat (prev cur : Byte) :
    (encIdx2 prev cur).toNat = prev.toNat % 16 * 4 + cur.toNat / 64 := by
  have := cur.isLt
  refine (append_toNat (prev.extractLsb' 0 4) (cur.extractLsb' 6 2) rfl).trans ?_
  simp [BitVec.extractLsb'_toNat, Nat.shiftRight_eq_div_pow]
  omega

@[simp] theorem encIdx3_toNat (prev : Byte) : (encIdx3 prev).toNat = prev.toNat % 64 := by
  simp [encIdx3, BitVec.extractLsb'_toNat]

@[simp] theorem decByte0_toNat (prev cur : Idx) :
    (decByte0 prev cur).toNat = prev.toNat * 4 + cur.toNat / 16 := by
  have := cur.isLt
  refine (append_toNat prev (cur.extractLsb' 4 2) rfl).trans ?_
  simp [BitVec.extractLsb'_toNat, Nat.shiftRight_eq_div_pow]
  omega

@[simp] theorem decByte1_toNat (prev cur : Idx) :
    (decByte1 prev cur).toNat = prev.toNat % 16 * 16 + cur.toNat / 4 := by
  have := cur.isLt
  refine (append_toNat (prev.extractLsb' 0 4) (cur.extractLsb' 2 4) rfl).trans ?_
  simp [BitVec.extractLsb'_toNat, Nat.shiftRight_eq_div_pow]
  omega

@[simp] theorem decByte2_toNat (prev cur : Idx) :
    (decByte2 prev cur).toNat = prev.toNat % 4 * 64 + cur.toNat := by
  refine (append_toNat (prev.extractLsb' 0 2) cur rfl).trans ?_
  simp [BitVec.extractLsb'_toNat]

@[simp] theorem zext8_toNat (v : Sym) : (zext8 v).toNat = v.toNat := by
  have := v.isLt
  simp [zext8]
  omega

/-! ### The alphabet maps as arithmetic (rules R122, R126, R128) -/

/-- `Std62` on numbers. -/
theorem std62_iff (v : Byte) : std62 v = true ↔
    (0x41 ≤ v.toNat ∧ v.toNat ≤ 0x5A) ∨ (0x61 ≤ v.toNat ∧ v.toNat ≤ 0x7A) ∨ (0x30 ≤ v.toNat ∧ v.toNat ≤ 0x39) := by
  simp [std62, BitVec.le_def, or_assoc]

/-- Bit 7 of a byte. -/
theorem high_iff (v : Byte) : v.getLsbD 7 = false ↔ v.toNat < 128 := by
  have := v.isLt
  rw [← Bool.not_eq_true, BitVec.getLsbD, Nat.testBit_eq_decide_div_mod_eq]
  simp
  omega

/-- The low seven bits of a byte below 128. -/
theorem low_toNat (v : Byte) : (v.extractLsb' 0 7).toNat = v.toNat % 128 := by
  simp [BitVec.extractLsb'_toNat]

/-- The forward map at a fixed index, one of the 62. -/
theorem Common.fwd_toNat (c : Common) (i : Idx) : (c.fwd i).toNat =
    if i.toNat ≤ 25 then 0x41 + i.toNat
    else if i.toNat ≤ 51 then 0x61 + (i.toNat - 26)
    else if i.toNat ≤ 61 then 0x30 + (i.toNat - 52)
    else if i.toNat = 62 then c.c62.toNat
    else c.c63.toNat := by
  unfold Common.fwd
  split_ifs <;> simp <;> omega

/-- The reverse map on numbers (rule R128). -/
theorem Common.rev_eq (c : Common) (v : Byte) : c.rev v =
    if 128 ≤ v.toNat then .invalid
    else if v.toNat = c.cpad.toNat then .pad
    else if 0x41 ≤ v.toNat ∧ v.toNat ≤ 0x5A then .data (BitVec.ofNat 6 (v.toNat - 0x41))
    else if 0x61 ≤ v.toNat ∧ v.toNat ≤ 0x7A then .data (BitVec.ofNat 6 (v.toNat - 0x61 + 26))
    else if 0x30 ≤ v.toNat ∧ v.toNat ≤ 0x39 then .data (BitVec.ofNat 6 (v.toNat - 0x30 + 52))
    else if v.toNat = c.c62.toNat then .data 62#6
    else if v.toNat = c.c63.toNat then .data 63#6
    else .invalid := by
  have low (x : Sym) (h : v.toNat < 128) : v.extractLsb' 0 7 = x ↔ v.toNat = x.toNat := by
    rw [← BitVec.toNat_inj, low_toNat, Nat.mod_eq_of_lt h]
  unfold Common.rev
  rcases Nat.lt_or_ge v.toNat 128 with h | h
  · rw [(high_iff v).2 h]
    simp [low _ h, BitVec.le_def, Nat.not_le.2 h]
  · have : v.getLsbD 7 = true := by
      by_contra hv
      exact absurd ((high_iff v).1 (by simpa using hv)) (by omega)
    simp [this, h]

/-- The configuration check on numbers (rule R122). -/
theorem cfgOk_iff (a b p : Byte) : cfgOk a b p = true ↔
    (a.toNat < 128 ∧ b.toNat < 128 ∧ p.toNat < 128) ∧ (std62 a = false ∧ std62 b = false ∧ std62 p = false) ∧
      a.toNat ≠ b.toNat ∧ a.toNat ≠ p.toNat ∧ b.toNat ≠ p.toNat := by
  simp only [cfgOk, Bool.and_eq_true, Bool.not_eq_true', high_iff, bne_iff_ne, ne_eq, BitVec.toNat_inj]
  tauto

/-- Two common registers with the same table answer the same (rules R12, R120). -/
theorem Common.rev_congr {c d : Common} (h62 : c.c62 = d.c62) (h63 : c.c63 = d.c63) (hp : c.cpad = d.cpad) (v : Byte) :
    c.rev v = d.rev v := by
  simp [Common.rev, h62, h63, hp]

theorem Common.fwd_congr {c d : Common} (h62 : c.c62 = d.c62) (h63 : c.c63 = d.c63) (i : Idx) : c.fwd i = d.fwd i := by
  simp [Common.fwd, h62, h63]

end Sys2Proof.Machine
end

