-- ==== Sys2Proof/Laws/Ops.lean ====
section
/-! SUPPORT. One lemma for each thing a shared operation can do, cited in place of unfolding it. -/

namespace Sys2Proof.Machine

variable (s : State) (n : Nat)

/-! ### Raising a fault -/

/-- A fault on an unfaulted unit writes the code into its `fault` and nothing else but the outcome (rule R13). -/
theorem State.raise_enc (c : FaultCode) (h : (s.enc n).com.fault = .none) :
    s.raise .enc n c =
      (s.setEnc n { s.enc n with com := { (s.enc n).com with fault := c } }).withRet (.raised c) := by
  simp [State.raise, Common.raise, h]

theorem State.raise_dec (c : FaultCode) (h : (s.dec n).com.fault = .none) :
    s.raise .dec n c =
      (s.setDec n { s.dec n with com := { (s.dec n).com with fault := c } }).withRet (.raised c) := by
  simp [State.raise, Common.raise, h]

theorem State.raise_val (c : FaultCode) (h : (s.val n).com.fault = .none) :
    s.raise .val n c =
      (s.setVal n { s.val n with com := { (s.val n).com with fault := c } }).withRet (.raised c) := by
  simp [State.raise, Common.raise, h]

/-! ### Construction -/

variable (c : Common) (cfg : CfgPins) (tick : Nat) (u : UnitKind)

/-- A construction that passes the check (rule R121). -/
theorem Common.build_ok (h : cfg.ok = true) :
    c.build cfg tick u n =
      ⟨true, .none, cfg.sel62.extractLsb' 0 7, cfg.sel63.extractLsb' 0 7, cfg.selPad.extractLsb' 0 7⟩ := by
  simp [Common.build, Common.clearFault, h]

/-- A construction that fails it (rule R123). -/
theorem Common.build_fail (h : cfg.ok = false) :
    c.build cfg tick u n =
      ⟨false, .config, Config.freeC62 tick u n, Config.freeC63 tick u n, Config.freeCpad tick u n⟩ := by
  simp [Common.build, Common.clearFault, Common.undefTable, Common.raise, FaultCode.latch, h]

theorem CfgPins.outcome_ok {cfg : CfgPins} (h : cfg.ok = true) : cfg.outcome = .done := by
  simp [CfgPins.outcome, h]

theorem CfgPins.outcome_fail {cfg : CfgPins} (h : cfg.ok = false) : cfg.outcome = .raised .config := by
  simp [CfgPins.outcome, h]

/-! ### Sources and wires -/

@[simp] theorem Source.pop_items (src : Source) : src.pop.items = src.items := rfl
@[simp] theorem Source.pop_tail (src : Source) : src.pop.tail = src.tail := rfl
@[simp] theorem Source.pop_rp (src : Source) : src.pop.rp = src.rp + 1 := rfl

/-- What a chained encoder does when its wire advances it (rules R229, R227, R148). -/
theorem State.wireAdvance_cases :
    ((s.enc n).com.fault ≠ .none ∧ s.wireAdvance n = s) ∨
      ((s.enc n).com.fault = .none ∧ (s.enc n).noMore = true ∧
        s.wireAdvance n = s.setEnc n { s.enc n with com := (s.enc n).com.raise .premature }) ∨
      ((s.enc n).com.fault = .none ∧ (s.enc n).noMore = false ∧ s.wireAdvance n = s.setEnc n (s.enc n).advanced) := by
  unfold State.wireAdvance
  split
  · exact .inl ⟨‹_›, rfl⟩
  · split <;> simp_all

theorem State.wireAdvance_other (k : Nat) :
    (s.wireAdvance k).decs = s.decs ∧ (s.wireAdvance k).vals = s.vals ∧ (s.wireAdvance k).tbls = s.tbls ∧
      (s.wireAdvance k).inbox = s.inbox ∧ (s.wireAdvance k).port = s.port ∧ (s.wireAdvance k).cfg = s.cfg ∧
      (s.wireAdvance k).ret = s.ret ∧ (s.wireAdvance k).tick = s.tick := by
  obtain ⟨-, h⟩ | ⟨-, -, h⟩ | ⟨-, -, h⟩ := s.wireAdvance_cases k <;> simp [h]

variable (w : Wire)

@[simp] theorem State.wirePop_stream (src : Source) : s.wirePop (.stream src) = s := rfl
@[simp] theorem State.wirePop_encoder (k : Nat) : s.wirePop (.encoder k) = s.wireAdvance k := rfl

@[simp] theorem State.wirePop_decs : (s.wirePop w).decs = s.decs := by
  cases w <;> simp [s.wireAdvance_other]
@[simp] theorem State.wirePop_vals : (s.wirePop w).vals = s.vals := by
  cases w <;> simp [s.wireAdvance_other]
@[simp] theorem State.wirePop_tbls : (s.wirePop w).tbls = s.tbls := by
  cases w <;> simp [s.wireAdvance_other]
@[simp] theorem State.wirePop_inbox : (s.wirePop w).inbox = s.inbox := by
  cases w <;> simp [s.wireAdvance_other]
@[simp] theorem State.wirePop_port : (s.wirePop w).port = s.port := by
  cases w <;> simp [s.wireAdvance_other]
@[simp] theorem State.wirePop_cfg : (s.wirePop w).cfg = s.cfg := by
  cases w <;> simp [s.wireAdvance_other]
@[simp] theorem State.wirePop_ret : (s.wirePop w).ret = s.ret := by
  cases w <;> simp [s.wireAdvance_other]
@[simp] theorem State.wirePop_tick : (s.wirePop w).tick = s.tick := by
  cases w <;> simp [s.wireAdvance_other]
@[simp] theorem State.wirePop_dec : (s.wirePop w).dec n = s.dec n := by simp [State.dec]
@[simp] theorem State.wirePop_val : (s.wirePop w).val n = s.val n := by simp [State.val]
@[simp] theorem State.wirePop_tbl : (s.wirePop w).tbl n = s.tbl n := by simp [State.tbl]

/-- A pop at a wire changes no encoder but the one at its other end. -/
theorem State.wirePop_enc (h : w ≠ .encoder n) : (s.wirePop w).enc n = s.enc n := by
  cases w with
  | stream src => rfl
  | encoder k =>
    have hk : n ≠ k := fun e => h (by rw [e])
    obtain ⟨-, e⟩ | ⟨-, -, e⟩ | ⟨-, -, e⟩ := s.wireAdvance_cases k <;>
      simp [e, State.setEnc_enc_other _ _ hk]

/-! ### The encoder's cursor -/

variable (e : Enc)

@[simp] theorem Enc.advanced_com : e.advanced.com = e.com := by
  unfold Enc.advanced
  split_ifs <;> rfl

/-- The four cases of `ADVANCE` (rule R148). -/
theorem Enc.advanced_cases :
    (e.pos = 3 ∧ e.advanced = { e with pos := 0, pad := false }) ∨
      (e.pos = 2 ∧ e.pad = true ∧ e.advanced = { e with pos := 3 }) ∨
      (e.pos ≠ 3 ∧ ¬(e.pos = 2 ∧ e.pad = true) ∧ e.src.exhausted = true ∧
        e.advanced = { e with pad := true, pos := e.pos + 1 }) ∨
      (e.pos ≠ 3 ∧ ¬(e.pos = 2 ∧ e.pad = true) ∧ e.src.exhausted = false ∧
        e.advanced = { e with prev := e.src.front, src := e.src.pop, pos := e.pos + 1 }) := by
  unfold Enc.advanced
  split_ifs with h1 h2 h3 <;> simp_all

/-- What a strobed operation of the encoder can do (rules R146, R148, R229). -/
theorem State.encStrobe_cases (k : Enc → State) :
    ((s.enc s.port).com.fault ≠ .none ∧ s.encStrobe k = s.withRet .ignored) ∨
      ((s.enc s.port).com.fault = .none ∧ (s.enc s.port).noMore = true ∧
        s.encStrobe k = s.raise .enc s.port .premature) ∨
      ((s.enc s.port).com.fault = .none ∧ (s.enc s.port).noMore = false ∧
        s.encStrobe k = k (s.enc s.port)) := by
  unfold State.encStrobe
  split
  · exact .inl ⟨‹_›, rfl⟩
  · split <;> simp_all

/-- A strobed operation of a live, unfaulted encoder that has more. -/
theorem State.encStrobe_ready (k : Enc → State) (hf : (s.enc s.port).com.fault = .none)
    (hm : (s.enc s.port).noMore = false) : s.encStrobe k = k (s.enc s.port) := by
  simp [State.encStrobe, hf, hm]

theorem State.encStrobe_exhausted (k : Enc → State) (hf : (s.enc s.port).com.fault = .none)
    (hm : (s.enc s.port).noMore = true) : s.encStrobe k = s.raise .enc s.port .premature := by
  simp [State.encStrobe, hf, hm]

theorem State.encStrobe_faulted (k : Enc → State) (hf : (s.enc s.port).com.fault ≠ .none) :
    s.encStrobe k = s.withRet .ignored := by
  simp [State.encStrobe, hf]

/-! ### The decoder's cursor -/

@[simp] theorem State.withRet_decHead (r : Ret) : (s.withRet r).decHead n = s.decHead n := rfl

/-- `PRIME` takes a data symbol (rule R180). -/
theorem State.prime_data {i : Idx} (h : s.decHead n = some (.data i)) : s.prime n = s.decTake n i := by
  simp [State.prime, h]

/-- `PRIME` leaves everything else alone (rule R180). -/
theorem State.prime_else (h : ∀ i, s.decHead n ≠ some (.data i)) : s.prime n = s := by
  unfold State.prime
  split
  · exact absurd ‹_› (h _)
  all_goals rfl

theorem State.prime_cases :
    (∃ i, s.decHead n = some (.data i) ∧ s.prime n = s.decTake n i) ∨
      ((∀ i, s.decHead n ≠ some (.data i)) ∧ s.prime n = s) := by
  by_cases h : ∃ i, s.decHead n = some (.data i)
  · obtain ⟨i, h⟩ := h
    exact .inl ⟨i, h, s.prime_data n h⟩
  · push Not at h
    exact .inr ⟨h, s.prime_else n h⟩

/-- A busy decoder primes, whatever the command (rules R111, R233). -/
theorem State.decStrobe_busy (rd : Bool) (k : Dec → Idx → State) (hb : (s.dec s.port).needPrime = true) :
    s.decStrobe rd k = if rd then s.primeEdgeRead s.port else s.primeEdge s.port := by
  simp [State.decStrobe, hb]

section Idle

variable (rd : Bool) (k : Dec → Idx → State) (hb : (s.dec s.port).needPrime = false)
include hb

theorem State.decStrobe_faulted (hf : (s.dec s.port).com.fault ≠ .none) : s.decStrobe rd k = s.withRet .ignored := by
  simp [State.decStrobe, hb, hf]

variable (hf : (s.dec s.port).com.fault = .none)
include hf

theorem State.decStrobe_notLive (hl : (s.dec s.port).com.live = false) :
    s.decStrobe rd k = s.raise .dec s.port .premature := by
  simp [State.decStrobe, hb, hf, hl]

theorem State.decStrobe_ended (h : s.decHead s.port = none ∨ s.decHead s.port = some .pad) :
    s.decStrobe rd k = s.raise .dec s.port .premature := by
  rcases h with h | h <;> simp [State.decStrobe, hb, hf, h]

theorem State.decStrobe_invalid (hl : (s.dec s.port).com.live = true) (h : s.decHead s.port = some .invalid) :
    s.decStrobe rd k = s.raise .dec s.port .malformed := by
  simp [State.decStrobe, hb, hf, hl, h]

theorem State.decStrobe_data {i : Idx} (hl : (s.dec s.port).com.live = true)
    (h : s.decHead s.port = some (.data i)) : s.decStrobe rd k = k (s.dec s.port) i := by
  simp [State.decStrobe, hb, hf, hl, h]

end Idle

/-- What a strobed operation of the decoder can do (rule R233). -/
theorem State.decStrobe_cases (rd : Bool) (k : Dec → Idx → State) :
    ((s.dec s.port).needPrime = true ∧
        s.decStrobe rd k = if rd then s.primeEdgeRead s.port else s.primeEdge s.port) ∨
      ((s.dec s.port).needPrime = false ∧
        (((s.dec s.port).com.fault ≠ .none ∧ s.decStrobe rd k = s.withRet .ignored) ∨
          ((s.dec s.port).com.fault = .none ∧
            (((s.dec s.port).com.live = false ∧ s.decStrobe rd k = s.raise .dec s.port .premature) ∨
              ((s.dec s.port).com.live = true ∧
                (((s.decHead s.port = none ∨ s.decHead s.port = some .pad) ∧
                    s.decStrobe rd k = s.raise .dec s.port .premature) ∨
                  (s.decHead s.port = some .invalid ∧ s.decStrobe rd k = s.raise .dec s.port .malformed) ∨
                  ∃ i, s.decHead s.port = some (.data i) ∧ s.decStrobe rd k = k (s.dec s.port) i)))))) := by
  cases hb : (s.dec s.port).needPrime
  · refine .inr ⟨rfl, ?_⟩
    by_cases hf : (s.dec s.port).com.fault = .none
    · refine .inr ⟨hf, ?_⟩
      cases hl : (s.dec s.port).com.live
      · exact .inl ⟨rfl, s.decStrobe_notLive rd k hb hf hl⟩
      · refine .inr ⟨rfl, ?_⟩
        rcases h : s.decHead s.port with _ | i | _ | _
        · exact .inl ⟨.inl rfl, s.decStrobe_ended rd k hb hf (.inl h)⟩
        · exact .inr (.inr ⟨i, rfl, s.decStrobe_data rd k hb hf hl h⟩)
        · exact .inl ⟨.inr rfl, s.decStrobe_ended rd k hb hf (.inr h)⟩
        · exact .inr (.inl ⟨rfl, s.decStrobe_invalid rd k hb hf hl h⟩)
    · exact .inl ⟨hf, s.decStrobe_faulted rd k hb hf⟩
  · exact .inl ⟨rfl, s.decStrobe_busy rd k hb⟩

/-! ### What moving a symbol leaves alone -/

/-- Consuming a symbol writes the decoder and, over a chain, the encoder behind it (rules R180, R279). -/
theorem State.decTake_other (c : Idx) :
    (s.decTake n c).vals = s.vals ∧ (s.decTake n c).tbls = s.tbls ∧ (s.decTake n c).inbox = s.inbox ∧
      (s.decTake n c).port = s.port ∧ (s.decTake n c).cfg = s.cfg ∧ (s.decTake n c).ret = s.ret ∧
      (s.decTake n c).tick = s.tick ∧ (s.decTake n c).encs = (s.wirePop (s.dec n).src).encs ∧
      (∀ m, m ≠ n → (s.decTake n c).dec m = s.dec m) ∧
      (s.decTake n c).dec n = { s.dec n with prev := c, src := (s.dec n).src.popped } := by
  simp +contextual [State.decTake, State.setDec_dec_other]

/-- `PRIME` writes nothing else either, and of the decoder only `prev` and the source (rule R180). -/
theorem State.prime_other :
    (s.prime n).vals = s.vals ∧ (s.prime n).tbls = s.tbls ∧ (s.prime n).inbox = s.inbox ∧
      (s.prime n).port = s.port ∧ (s.prime n).cfg = s.cfg ∧ (s.prime n).ret = s.ret ∧ (s.prime n).tick = s.tick ∧
      (∀ m, m ≠ n → (s.prime n).dec m = s.dec m) ∧ ((s.prime n).dec n).com = (s.dec n).com ∧
      ((s.prime n).dec n).pos = (s.dec n).pos ∧ ((s.prime n).dec n).needPrime = (s.dec n).needPrime := by
  obtain ⟨i, -, h⟩ | ⟨-, h⟩ := s.prime_cases n
  · have := s.decTake_other n i
    simp_all
  · simp [h]

/-- The two cases of a decoder's `ADVANCE` that completes (rule R178): inside a group, and on the wrap. -/
theorem State.decAdvanced_cases (c : Idx) (pinLevel : Bool) :
    ((s.dec n).pos ≠ 2 ∧ s.decAdvanced n c pinLevel =
        (s.decTake n c).setDec n { (s.decTake n c).dec n with pos := (s.dec n).pos + 1 }) ∨
      ((s.dec n).pos = 2 ∧ s.decAdvanced n c pinLevel =
        ((s.decTake n c).setDec n { (s.decTake n c).dec n with pos := 0 }).owePrime n pinLevel) := by
  by_cases h : (s.dec n).pos = 2
  · refine .inr ⟨h, ?_⟩
    simp [State.decAdvanced, State.decTake, h]
  · refine .inl ⟨h, ?_⟩
    simp [State.decAdvanced, State.decTake, h]

/-! ### The micro-step of a busy decoder, and the rest of a clock edge -/

/-- The micro-step writes the decoder's `prev`, source and `needPrime` and, over a chain, the encoder behind it (rule
R110). -/
theorem State.primeEdge_other :
    (s.primeEdge n).vals = s.vals ∧ (s.primeEdge n).tbls = s.tbls ∧ (s.primeEdge n).inbox = s.inbox ∧
      (s.primeEdge n).port = s.port ∧ (s.primeEdge n).cfg = s.cfg ∧ (s.primeEdge n).ret = s.ret ∧
      (s.primeEdge n).tick = s.tick ∧ (∀ m, m ≠ n → (s.primeEdge n).dec m = s.dec m) ∧
      ((s.primeEdge n).dec n).com = (s.dec n).com ∧ ((s.primeEdge n).dec n).pos = (s.dec n).pos ∧
      ((s.primeEdge n).dec n).needPrime = false := by
  have := s.prime_other n
  simp +contextual [State.primeEdge, State.setDec_dec_other, this]

/-- A read while busy does what the micro-step does, and the consumer is given the unspecified pin (rule R273). -/
theorem State.primeEdgeRead_eq :
    s.primeEdgeRead n = { s.primeEdge n with ret := .byte (Config.freeDecFront s.tick n) } := rfl

/-- A property that every micro-step of a busy decoder that is not driven keeps, the rest of a clock edge keeps. -/
theorem State.primeOwed_keeps (driven : Option Nat) {P : State → Prop}
    (hP : ∀ t m, (t.dec m).needPrime = true → driven ≠ some m → P t → P (t.primeEdge m)) (l : List Nat) :
    P s → P (State.primeOwed driven l s) := by
  induction l generalizing s with
  | nil => exact id
  | cons m l ih =>
    intro h
    unfold State.primeOwed
    split
    · next hb => exact ih _ (hP _ _ hb.1 hb.2 h)
    · exact ih _ h

theorem State.settle_keeps (driven : Option Nat) {P : State → Prop}
    (hP : ∀ t m, (t.dec m).needPrime = true → driven ≠ some m → P t → P (t.primeEdge m)) (h : P s) :
    P (s.settle driven) :=
  s.primeOwed_keeps driven hP _ h

/-- Where no decoder but the driven one is busy, nothing is left to do. -/
theorem State.settle_idle (driven : Option Nat) (h : ∀ m, driven ≠ some m → (s.dec m).needPrime = false) :
    s.settle driven = s := by
  have key : ∀ l, State.primeOwed driven l s = s := by
    intro l
    induction l with
    | nil => rfl
    | cons m l ih =>
      unfold State.primeOwed
      rw [if_neg (by rintro ⟨h1, h2⟩; simp [h m h2] at h1)]
      exact ih
  exact key _

/-- A unit past the end of its list owes nothing. -/
theorem State.needPrime_listed {m : Nat} (h : (s.dec m).needPrime = true) : m < s.decs.length := by
  unfold State.dec at h
  generalize s.decs = l at h ⊢
  induction l generalizing m with
  | nil => simp [Dec.reset] at h
  | cons d l ih =>
    cases m with
    | zero => simp
    | succ m => simpa using ih (by simpa [unitGet] using h)

/-- The rest of a clock edge touches decoders' `prev`, sources and `needPrime`, which it may clear, and encoders behind them;
of the driven decoder nothing. -/
theorem State.settle_other (driven : Option Nat) :
    (s.settle driven).vals = s.vals ∧ (s.settle driven).tbls = s.tbls ∧ (s.settle driven).inbox = s.inbox ∧
      (s.settle driven).port = s.port ∧ (s.settle driven).cfg = s.cfg ∧ (s.settle driven).ret = s.ret ∧
      (s.settle driven).tick = s.tick ∧ (∀ m, driven = some m → (s.settle driven).dec m = s.dec m) ∧
      ∀ m, ((s.settle driven).dec m).com = (s.dec m).com ∧ ((s.settle driven).dec m).pos = (s.dec m).pos ∧
        ((s.dec m).needPrime = false → (s.settle driven).dec m = s.dec m) := by
  refine s.settle_keeps driven (P := fun t => t.vals = s.vals ∧ t.tbls = s.tbls ∧ t.inbox = s.inbox ∧
    t.port = s.port ∧ t.cfg = s.cfg ∧ t.ret = s.ret ∧ t.tick = s.tick ∧ (∀ m, driven = some m → t.dec m = s.dec m) ∧
    ∀ m, (t.dec m).com = (s.dec m).com ∧ (t.dec m).pos = (s.dec m).pos ∧
      ((s.dec m).needPrime = false → t.dec m = s.dec m)) ?_ (by simp)
  intro t k hk hd ⟨h1, h2, h3, h4, h5, h6, h7, h8, h9⟩
  obtain ⟨e1, e2, e3, e4, e5, e6, e7, e8, e9, e10, -⟩ := t.primeEdge_other k
  refine ⟨e1.trans h1, e2.trans h2, e3.trans h3, e4.trans h4, e5.trans h5, e6.trans h6, e7.trans h7, fun m hm => ?_,
    fun m => ?_⟩
  · rw [e8 m (fun e => hd (e ▸ hm)), h8 m hm]
  · by_cases hm : m = k
    · subst hm
      exact ⟨e9.trans (h9 m).1, e10.trans (h9 m).2.1, fun h => by rw [(h9 m).2.2 h, h] at hk; cases hk⟩
    · rw [e8 m hm]
      exact h9 m

/-- No decoder that is not driven is busy after the rest of the edge (rule R111). -/
theorem State.settle_notBusy (driven : Option Nat) {m : Nat} (hd : driven ≠ some m) :
    ((s.settle driven).dec m).needPrime = false := by
  have stays : ∀ t l, (t.dec m).needPrime = false → ((State.primeOwed driven l t).dec m).needPrime = false := by
    intro t l ht
    refine t.primeOwed_keeps driven (P := fun t => (t.dec m).needPrime = false) ?_ l ht
    intro t k hk _ hm
    rw [(t.primeEdge_other k).2.2.2.2.2.2.2.1 m (fun e => by simp [e, hk] at hm)]
    exact hm
  have key : ∀ l t, m ∈ l → ((State.primeOwed driven l t).dec m).needPrime = false := by
    intro l
    induction l with
    | nil => simp
    | cons k l ih =>
      intro t hm
      unfold State.primeOwed
      rcases List.mem_cons.1 hm with rfl | hm
      · refine stays _ l ?_
        split
        · exact (t.primeEdge_other m).2.2.2.2.2.2.2.2.2.2
        · next hb => simpa [hd] using hb
      · exact ih _ hm
  cases hb : (s.dec m).needPrime
  · exact stays s _ hb
  · exact key _ s (List.mem_range.2 (s.needPrime_listed hb))

/-- Numbers past the end of the list add nothing. -/
theorem State.primeOwed_range (driven : Option Nat) (k : Nat) :
    State.primeOwed driven (List.range (s.decs.length + k)) s = s.settle driven := by
  have app : ∀ l l' t, State.primeOwed driven (l ++ l') t = State.primeOwed driven l' (State.primeOwed driven l t) := by
    intro l l'
    induction l with
    | nil => exact fun _ => rfl
    | cons m l ih => exact fun t => ih _
  induction k with
  | zero => rfl
  | succ k ih =>
    rw [← Nat.add_assoc, List.range_succ, app, ih]
    unfold State.primeOwed
    rw [if_neg]
    · rfl
    rintro ⟨h, hd⟩
    rw [s.settle_notBusy driven hd] at h
    cases h

/-! ### The validator -/

/-- What `STEP` can do (rule R204). -/
theorem execValStep_cases :
    ((s.val s.port).com.fault ≠ .none ∧ execValStep s = .next (s.withRet .ignored)) ∨
      ((s.val s.port).com.fault = .none ∧
        (((s.val s.port).com.live = false ∨ s.head (s.val s.port).com (s.val s.port).src = none) ∧
            execValStep s = .next (s.raise .val s.port .premature) ∨
          (s.val s.port).com.live = true ∧ ∃ cls, s.head (s.val s.port).com (s.val s.port).src = some cls ∧
            execValStep s = .next
              (((s.wirePop (s.val s.port).src).setVal s.port ((s.val s.port).stepped cls)).withRet .done))) := by
  by_cases hf : (s.val s.port).com.fault = .none
  · refine .inr ⟨hf, ?_⟩
    cases hl : (s.val s.port).com.live
    · exact .inl ⟨.inl rfl, by simp [execValStep, hf, hl]⟩
    · rcases hh : s.head (s.val s.port).com (s.val s.port).src with _ | cls
      · exact .inl ⟨.inr rfl, by simp [execValStep, hf, hl, hh]⟩
      · exact .inr ⟨rfl, cls, rfl, by simp [execValStep, hf, hl, hh]⟩
  · exact .inl ⟨hf, by simp [execValStep, hf]⟩

end Sys2Proof.Machine
end

