-- ==== Sys2Proof/Laws/PerInstr.lean ====
section
/-! SUPPORT. One family of statements about commands as syntax, one lemma per constructor: `wf` is what rule R97 asks of
a driver, that the bits rule R95 ignores are 0 in the control word. -/

namespace Sys2Proof.Laws

/-- The bits of a control word that rule R95 ignores on a port. -/
def ignored (u : UnitKind) (w : Ctl) : Ctl :=
  match u, w.getLsbD 2 with
  | _, true => 0b011#3
  | .tbl, false => 0b011#3
  | .val, false => 0b010#3
  | .enc, false => 0b000#3
  | .dec, false => 0b000#3

end Sys2Proof.Laws

namespace Sys2Proof.Laws.ReservedBitsZero

/-- A command is well-formed exactly when every ignored bit of its word is 0. -/
def Statement (i : Instr) : Prop :=
  i.wf = true ↔ (encode i).2 &&& ignored (encode i).1 (encode i).2 = 0#3

theorem encNop : Statement .encNop := by unfold Statement; decide
theorem encAdvance : Statement .encAdvance := by unfold Statement; decide
theorem encFront : Statement .encFront := by unfold Statement; decide
theorem encPop : Statement .encPop := by unfold Statement; decide
theorem encConstruct : ∀ rd adv, Statement (.encConstruct rd adv) := by unfold Statement; decide
theorem decNop : Statement .decNop := by unfold Statement; decide
theorem decAdvance : Statement .decAdvance := by unfold Statement; decide
theorem decFront : Statement .decFront := by unfold Statement; decide
theorem decPop : Statement .decPop := by unfold Statement; decide
theorem decConstruct : ∀ rd adv, Statement (.decConstruct rd adv) := by unfold Statement; decide
theorem valNop : ∀ rd, Statement (.valNop rd) := by unfold Statement; decide
theorem valStep : ∀ rd, Statement (.valStep rd) := by unfold Statement; decide
theorem valConstruct : ∀ rd adv, Statement (.valConstruct rd adv) := by unfold Statement; decide
theorem tblNop : ∀ rd adv, Statement (.tblNop rd adv) := by unfold Statement; decide
theorem tblBuild : ∀ rd adv, Statement (.tblBuild rd adv) := by unfold Statement; decide

end Sys2Proof.Laws.ReservedBitsZero
end

