-- ==== Sys2Proof/Laws/Wiring.lean ====
section
/-! SUPPORT. Who drives an encoder, said by port instead of by list, and when sources conform. -/

namespace Sys2Proof.Machine

/-! ### Ports by number -/

section Units

variable {α β : Type} {dflt : α} {f : α → List β}

theorem mem_flatMap_unitGet (h0 : f dflt = []) (l : List α) (k : β) :
    k ∈ l.flatMap f ↔ ∃ m, k ∈ f (unitGet dflt l m) := by
  induction l with
  | nil => simp [h0]
  | cons x l ih =>
    simp only [List.flatMap_cons, List.mem_append, ih]
    constructor
    · rintro (h | ⟨m, h⟩)
      · exact ⟨0, h⟩
      · exact ⟨m + 1, h⟩
    · rintro ⟨m, h⟩
      cases m with
      | zero => exact .inl h
      | succ m => exact .inr ⟨m, h⟩

theorem nodup_flatMap_unitGet (h0 : f dflt = []) (hf : ∀ x, (f x).Nodup) (l : List α) :
    (l.flatMap f).Nodup ↔
      ∀ k m m', k ∈ f (unitGet dflt l m) → k ∈ f (unitGet dflt l m') → m = m' := by
  induction l with
  | nil => simp [h0]
  | cons x l ih =>
    rw [List.flatMap_cons, List.nodup_append, ih]
    constructor
    · rintro ⟨-, h, hd⟩ k m m' hm hm'
      cases m with
      | zero =>
        cases m' with
        | zero => rfl
        | succ m' => exact absurd rfl (hd k hm k ((mem_flatMap_unitGet h0 l k).2 ⟨m', hm'⟩))
      | succ m =>
        cases m' with
        | zero => exact absurd rfl (hd k hm' k ((mem_flatMap_unitGet h0 l k).2 ⟨m, hm⟩))
        | succ m' => rw [h k m m' hm hm']
    · intro h
      refine ⟨hf x, fun k m m' hm hm' => Nat.succ.inj (h k (m + 1) (m' + 1) hm hm'), ?_⟩
      rintro k hk _ hk' rfl
      obtain ⟨m, hm⟩ := (mem_flatMap_unitGet h0 l k).1 hk'
      exact absurd (h k 0 (m + 1) hk hm) (by simp)

end Units

theorem Wire.mem_feeder (w : Wire) (k : Nat) : k ∈ w.feeder ↔ w = .encoder k := by
  cases w <;> simp [Wire.feeder, eq_comm]

theorem Wire.feeder_nodup (w : Wire) : w.feeder.Nodup := by
  cases w <;> simp [Wire.feeder]

variable (s : State)

/-- No encoder is wired to two ports (rules R272, R279). -/
theorem State.oneDriver_iff :
    s.oneDriver = true ↔ ∀ k p p', s.WiredTo p k → s.WiredTo p' k → p = p' := by
  have hd : ∀ k, k ∈ s.decs.flatMap (fun d => d.src.feeder) ↔ ∃ m, (s.dec m).src = .encoder k := fun k => by
    simpa [Wire.mem_feeder, State.dec] using
      mem_flatMap_unitGet (dflt := Dec.reset) (f := fun d => d.src.feeder) rfl s.decs k
  have hv : ∀ k, k ∈ s.vals.flatMap (fun v => v.src.feeder) ↔ ∃ m, (s.val m).src = .encoder k := fun k => by
    simpa [Wire.mem_feeder, State.val] using
      mem_flatMap_unitGet (dflt := Val.reset) (f := fun v => v.src.feeder) rfl s.vals k
  have nd := nodup_flatMap_unitGet (dflt := Dec.reset) (f := fun d => d.src.feeder) rfl
    (fun d => d.src.feeder_nodup) s.decs
  have nv := nodup_flatMap_unitGet (dflt := Val.reset) (f := fun v => v.src.feeder) rfl
    (fun v => v.src.feeder_nodup) s.vals
  simp only [Wire.mem_feeder] at nd nv
  rw [State.oneDriver, decide_eq_true_iff, State.feeders, List.nodup_append, nd, nv]
  constructor
  · rintro ⟨h1, h2, h3⟩ k ⟨u, n⟩ ⟨u', n'⟩ hp hp'
    cases u <;> cases u' <;> simp only [State.WiredTo] at hp hp'
    · rw [h1 k n n' hp hp']
    · exact absurd rfl (h3 k ((hd k).2 ⟨n, hp⟩) k ((hv k).2 ⟨n', hp'⟩))
    · exact absurd rfl (h3 k ((hd k).2 ⟨n', hp'⟩) k ((hv k).2 ⟨n, hp⟩))
    · rw [h2 k n n' hp hp']
  · intro h
    refine ⟨fun k m m' hm hm' => (Prod.mk.inj (h k (.dec, m) (.dec, m') hm hm')).2,
      fun k m m' hm hm' => (Prod.mk.inj (h k (.val, m) (.val, m') hm hm')).2, ?_⟩
    rintro k hk _ hk' rfl
    obtain ⟨m, hm⟩ := (hd k).1 hk
    obtain ⟨m', hm'⟩ := (hv k).1 hk'
    exact absurd (h k (.dec, m) (.val, m') hm hm') (by simp)

/-- A unit in use with encoder `k` as its source, by port. -/
theorem State.feedsLive_iff (k : Nat) :
    s.feedsLive k = true ↔ ∃ p, s.WiredTo p k ∧ (s.common p.1 p.2).live = true := by
  have hd := mem_flatMap_unitGet (dflt := Dec.reset)
    (f := fun d : Dec => if d.com.live then d.src.feeder else []) rfl s.decs k
  have hv := mem_flatMap_unitGet (dflt := Val.reset)
    (f := fun v : Val => if v.com.live then v.src.feeder else []) rfl s.vals k
  have l : ∀ (b : Bool) (w : Wire), k ∈ (if b then w.feeder else []) ↔ b = true ∧ w = .encoder k := fun b w => by
    cases b <;> simp [Wire.mem_feeder]
  simp only [List.mem_flatMap, l] at hd hv
  simp only [State.feedsLive, Bool.or_eq_true, List.any_eq_true, Bool.and_eq_true, decide_eq_true_iff, hd, hv]
  constructor
  · rintro (⟨m, h⟩ | ⟨m, h⟩)
    · exact ⟨(.dec, m), h.2, h.1⟩
    · exact ⟨(.val, m), h.2, h.1⟩
  · rintro ⟨⟨u, m⟩, hw, hl⟩
    cases u <;> simp only [State.WiredTo] at hw
    · exact .inl ⟨m, hl, hw⟩
    · exact .inr ⟨m, hl, hw⟩

/-- A prime that pops encoder `k`, by the decoder that primes. -/
theorem State.primePops_iff (k : Nat) :
    s.primePops k = true ↔
      ∃ m i, (s.dec m).needPrime = true ∧ (s.dec m).src = .encoder k ∧ s.decHead m = some (.data i) := by
  have hh : ∀ m, s.decHeadData m = true ↔ ∃ i, s.decHead m = some (.data i) := fun m => by
    unfold State.decHeadData
    split <;> simp_all
  simp only [State.primePops, List.any_eq_true, List.mem_range, Bool.and_eq_true, decide_eq_true_iff, hh]
  constructor
  · rintro ⟨m, -, ⟨hb, hw⟩, i, hi⟩
    exact ⟨m, i, hb, hw, hi⟩
  · rintro ⟨m, i, hb, hw, hi⟩
    exact ⟨m, s.needPrime_listed hb, ⟨hb, hw⟩, i, hi⟩

/-! ### The step -/

/-- The two things a step can be. -/
theorem step_cases :
    (s.contended = true ∧ step s = .refused .twoDrivers) ∨ (s.contended = false ∧ step s = s.cycle) := by
  cases h : s.contended <;> simp [step, h]

/-! ### Conformance (rule R62) -/

theorem Source.KeptAs.refl (src : Source) : src.KeptAs src := ⟨rfl, List.prefix_refl _⟩

theorem Wire.KeptAs.refl (w : Wire) : w.KeptAs w := by
  cases w with
  | stream src => exact Source.KeptAs.refl src
  | encoder k => exact rfl

theorem State.SourceKept.refl (u : UnitKind) (n : Nat) : s.SourceKept s u n := by
  cases u
  · exact Source.KeptAs.refl _
  · exact Wire.KeptAs.refl _
  · exact Wire.KeptAs.refl _
  · exact trivial

/-- Sources of rule R60 conform by construction: where no port is chained and no source is wired in the step (rule R62: "(a)
and (b) hold of `SRC` of rule R60 by construction"). -/
theorem State.conforming_of_streams (hw : ∀ p k, ¬s.WiredTo p k)
    (hx : s.wiring = s) (hc : s.contended = false) : s.Conforming := by
  have hs : ∀ u n tick, ({ s with tick := tick } : State).srcShows u n = s.srcShows u n := by
    intro u n tick
    cases u with
    | dec =>
      show (if State.wireEmpty { s with tick := tick } (s.dec n).src then none else
        some (State.wireFront { s with tick := tick } (s.dec n).src)) = _
      rcases h : (s.dec n).src with src | k
      · simp only [State.srcShows, h, State.wireEmpty, State.wireFront]
        rfl
      · exact absurd h (hw (.dec, n) k)
    | val =>
      show (if State.wireEmpty { s with tick := tick } (s.val n).src then none else
        some (State.wireFront { s with tick := tick } (s.val n).src)) = _
      rcases h : (s.val n).src with src | k
      · simp only [State.srcShows, h, State.wireEmpty, State.wireFront]
        rfl
      · exact absurd h (hw (.val, n) k)
    | enc => rfl
    | tbl => rfl
  refine ⟨fun u n tick _ h => by rw [hx, hs, h], fun u n tick b _ h => by rw [hx, hs, h],
    fun u n _ => by rw [hx]; exact .refl s u n, hc,
    fun c _ _ _ _ => ?_⟩
  rw [Bool.eq_false_iff]
  intro h
  obtain ⟨p, hp, -⟩ := (s.feedsLive_iff c.num).1 h
  exact hw p c.num hp

end Sys2Proof.Machine
end

