-- ==== Sys2Proof/Tests/Slice0.lean ====
section
/-! SUPPORT. The model's own tests: what WellFormed refuses, words written out from rule R95, and one step of each
command with the values of spec/95_test_vectors.md or of the example in the operation's own rule; then, for every
obligation with hypotheses, a witness that meets them, clause by clause. -/

namespace Sys2Proof.Tests

open Sys2Proof.Machine Sys2Proof.Claims

/-! ### What the check refuses (rule R97), and what it lets through -/

theorem test_wf_refuses_reserved_bits :
    Instr.wf (.encConstruct true false) = false ∧ Instr.wf (.decConstruct false true) = false ∧
      Instr.wf (.valNop true) = false ∧ Instr.wf (.valStep true) = false ∧
      Instr.wf (.valConstruct true true) = false ∧ Instr.wf (.tblNop false true) = false ∧
      Instr.wf (.tblNop true false) = false ∧ Instr.wf (.tblBuild true false) = false := by decide

theorem test_wf_accepts :
    Instr.wf .encNop = true ∧ Instr.wf .encPop = true ∧ Instr.wf .decAdvance = true ∧
      Instr.wf (.decConstruct false false) = true ∧ Instr.wf (.valStep false) = true ∧
      Instr.wf (.tblBuild false false) = true := by decide

/-! ### Words from rule R95: `start` is bit 2, `rd` bit 1, `adv` bit 0 -/

theorem test_words_enc :
    decode .enc 0b000#3 = .encNop ∧ decode .enc 0b001#3 = .encAdvance ∧ decode .enc 0b010#3 = .encFront ∧
      decode .enc 0b011#3 = .encPop ∧ decode .enc 0b110#3 = .encConstruct true false := by decide

theorem test_words_dec :
    decode .dec 0b000#3 = .decNop ∧ decode .dec 0b001#3 = .decAdvance ∧ decode .dec 0b010#3 = .decFront ∧
      decode .dec 0b011#3 = .decPop ∧ decode .dec 0b101#3 = .decConstruct false true := by decide

theorem test_words_val :
    decode .val 0b010#3 = .valNop true ∧ decode .val 0b001#3 = .valStep false ∧ decode .val 0b011#3 = .valStep true ∧
      decode .val 0b100#3 = .valConstruct false false := by decide

theorem test_words_tbl :
    decode .tbl 0b011#3 = .tblNop true true ∧ decode .tbl 0b111#3 = .tblBuild true true := by decide

/-- A table word with no port named is read on the encoder's port; a bit without a meaning is rejected. -/
theorem test_table_word :
    decodeTableWord 8 0b011 = some .encPop ∧ decodeTableWord 8 (8 + 0b011) = some .decPop ∧
      decodeTableWord 8 32 = none ∧ decodeTableWord 16 256 = none := by decide

/-! ### Small states -/

/-- The standard table of a live, unfaulted unit (rule R130). -/
def table : Common := ⟨true, .none, 0x2B#7, 0x2F#7, 0x3D#7⟩

def pinsStd : CfgPins := ⟨true, 0xFF#8, 0xFF#8, 0xFF#8⟩
def pinsUrl : CfgPins := ⟨false, 0x2D#8, 0x5F#8, 0x2E#8⟩

/-- Refused: the low seven bits of the padding operand would do (95, T-T1). -/
def pinsBad : CfgPins := ⟨false, 0x2B#8, 0x2F#8, 0xBD#8⟩

/-- Encoder 0 at `(pos, pad, prev)` with these bytes ahead. -/
def encAt (pos : Fin 4) (pad : Bool) (prev : Byte) (ahead : List Byte) : State :=
  { State.reset with encs := [⟨table, pos, prev, pad, ⟨ahead, .ends, 0⟩⟩], cfg := pinsStd }

/-- Decoder 0 at `(pos, prev)` with these symbols ahead. -/
def decAt (pos : Fin 3) (prev : Idx) (ahead : List Byte) : State :=
  { State.reset with decs := [⟨table, pos, prev, false, .stream ⟨ahead, .ends, 0⟩⟩], cfg := pinsStd }

/-- Validator 0 at `(cnt, npad, bad)` with these symbols ahead. -/
def valAt (cnt npad : Fin 4) (bad : Bool) (ahead : List Byte) : State :=
  { State.reset with vals := [⟨table, cnt, npad, bad, .stream ⟨ahead, .ends, 0⟩⟩], cfg := pinsStd }

/-- Table 0 live with the standard alphabet. -/
def tblAt : State := { State.reset with tbls := [⟨table⟩], cfg := pinsStd }

/-- The state with these configuration pins driven. -/
def driving (cfg : CfgPins) (s : State) : State := { s with cfg := cfg }

/-- The next state; every outcome is one (rule R14). -/
def nextOf : Host.Outcome State Fault Refusal → State
  | .next t => t
  | .fault f => nomatch f
  | .refused _ => State.reset

/-! ### The encoder -/

/-- 95, T-E7: a `NOP` in the middle of a group. -/
theorem test_encNop : nextOf (exec .encNop (encAt 2 true 0x6E#8 [])) =
    (encAt 2 true 0x6E#8 []).withRet .done := by decide

/-- 95, T-E3, fourth row: input ended mid-group. -/
theorem test_encAdvance_pads : (nextOf (exec .encAdvance (encAt 1 false 0x6E#8 []))).enc 0 =
    (encAt 2 true 0x6E#8 []).enc 0 := by decide

/-- 95, T-E3, eighth row. -/
theorem test_encAdvance_pops : (nextOf (exec .encAdvance (encAt 2 false 0x65#8 [0x73#8]))).enc 0 =
    ⟨table, 3, 0x73#8, false, ⟨[0x73#8], .ends, 1⟩⟩ := by decide

/-- 95, T-E1, third row. -/
theorem test_encFront : (nextOf (exec .encFront (encAt 1 false 0x03#8 [0x0F#8]))).ret = .symbol 0x77#7 := by decide

/-- 95, T-E2: the leftover bits over two zero bits. -/
theorem test_encFront_flush : (nextOf (exec .encFront (encAt 2 false 0xFF#8 []))).ret = .symbol 0x38#7 := by decide

/-- 95, V1, first row. -/
theorem test_encPop : (nextOf (exec .encPop (encAt 0 false 0x00#8 [0x74#8, 0x65#8]))).ret = .symbol 0x64#7 ∧
    ((nextOf (exec .encPop (encAt 0 false 0x00#8 [0x74#8, 0x65#8]))).enc 0).prev = 0x74#8 := by decide

/-- 95, T-E9: a `POP` of an encoder that was never constructed. -/
theorem test_encPop_notLive : (nextOf (exec .encPop State.reset)).ret = .raised .premature ∧
    ((nextOf (exec .encPop State.reset)).enc 0).com.fault = .premature := by decide

/-- 95, T-E8: the URL-safe table. -/
theorem test_encConstruct :
    (nextOf (exec (.encConstruct true true) (driving pinsUrl (encAt 3 true 0x01#8 [0xFB#8])))).enc 0 =
    ⟨⟨true, .none, 0x2D#7, 0x5F#7, 0x2E#7⟩, 0, 0x00#8, false, ⟨[0xFB#8], .ends, 0⟩⟩ := by decide

/-- 95, T-T1: `2B 2F BD` is refused. -/
theorem test_encConstruct_config :
    (nextOf (exec (.encConstruct false false) (driving pinsBad (encAt 3 true 0x01#8 [])))).ret = .raised .config ∧
      ((nextOf (exec (.encConstruct false false) (driving pinsBad (encAt 3 true 0x01#8 [])))).enc 0).com.live = false := by
  decide

/-! ### The decoder -/

theorem test_decNop : nextOf (exec .decNop (decAt 1 6#6 [0x56#8])) = (decAt 1 6#6 [0x56#8]).withRet .done := by decide

/-- The example of rule R178: `zdA==` at `pos` 2, with the prime on the wrap. -/
theorem test_decAdvance_wrap :
    (nextOf (exec .decAdvance (decAt 2 21#6 [0x7A#8, 0x64#8, 0x41#8, 0x3D#8, 0x3D#8]))).dec 0 =
      ⟨table, 0, 29#6, false, .stream ⟨[0x7A#8, 0x64#8, 0x41#8, 0x3D#8, 0x3D#8], .ends, 2⟩⟩ := by decide

/-- 95, T-D1, fourth row. -/
theorem test_decFront : (nextOf (exec .decFront (decAt 1 63#6 [0x41#8]))).ret = .byte 0xF0#8 := by decide

/-- 95, T-D3: `!` at the head. -/
theorem test_decFront_malformed : (nextOf (exec .decFront (decAt 0 0#6 [0x21#8, 0x41#8]))).ret = .raised .malformed := by
  decide

/-- The example of rule R182. -/
theorem test_decPop : (nextOf (exec .decPop (decAt 0 29#6 [0x47#8, 0x56#8, 0x7A#8]))).ret = .byte 0x74#8 ∧
    ((nextOf (exec .decPop (decAt 0 29#6 [0x47#8, 0x56#8, 0x7A#8]))).dec 0).prev = 6#6 := by decide

/-- 95, T-D2: padding at the head ends the stream. -/
theorem test_decPop_padding : (nextOf (exec .decPop (decAt 2 28#6 [0x3D#8]))).ret = .raised .premature := by decide

/-- The example of rule R172: `dGVz`. -/
theorem test_decConstruct :
    (nextOf (exec (.decConstruct false false) (decAt 2 5#6 [0x64#8, 0x47#8, 0x56#8, 0x7A#8]))).dec 0 =
      ⟨table, 0, 29#6, false, .stream ⟨[0x64#8, 0x47#8, 0x56#8, 0x7A#8], .ends, 1⟩⟩ := by decide

/-- 95, T-D2, last row: padding as the first symbol is not consumed. -/
theorem test_decConstruct_padding :
    (nextOf (exec (.decConstruct false false) (decAt 2 5#6 [0x3D#8, 0x41#8]))).dec 0 =
      ⟨table, 0, 0#6, false, .stream ⟨[0x3D#8, 0x41#8], .ends, 0⟩⟩ := by decide

/-- Rule R110: at the pin level the prime is the next edge's, whatever is on `ctl` there. -/
theorem test_edge_then_prime :
    (nextOf (edge (.decConstruct false false) (decAt 2 5#6 [0x64#8]))).busy .dec 0 = true ∧
      (nextOf (edge .decPop (nextOf (edge (.decConstruct false false) (decAt 2 5#6 [0x64#8]))))).dec 0 =
        ⟨table, 0, 29#6, false, .stream ⟨[0x64#8], .ends, 1⟩⟩ := by decide

/-! ### The validator and the table -/

theorem test_valNop : nextOf (exec (.valNop true) (valAt 3 1 false [0x41#8])) =
    (valAt 3 1 false [0x41#8]).withRet .done := by decide

/-- The example of rule R204. -/
theorem test_valStep : (nextOf (exec (.valStep true) (valAt 3 0 false [0x3D#8]))).val 0 =
    ⟨table, 0, 1, false, .stream ⟨[0x3D#8], .ends, 1⟩⟩ := by decide

/-- 95, V6, step 5: a data symbol after padding. -/
theorem test_valStep_bad : (nextOf (exec (.valStep false) (valAt 0 1 false [0x70#8]))).val 0 =
    ⟨table, 1, 1, true, .stream ⟨[0x70#8], .ends, 1⟩⟩ := by decide

/-- 95, V8: the empty sequence is valid. -/
theorem test_valConstruct :
    (nextOf (exec (.valConstruct false false) (valAt 3 3 true []))).answer (.valOk 0) = .bit true := by decide

theorem test_tblNop : nextOf (exec (.tblNop true true) tblAt) = tblAt.withRet .done := by decide

/-- The example of rule R121. -/
theorem test_tblBuild : (nextOf (exec (.tblBuild false false) (driving pinsUrl State.reset))).tbl 0 =
    ⟨⟨true, .none, 0x2D#7, 0x5F#7, 0x2E#7⟩⟩ := by decide

/-- 95, T-T2 and T-T3. -/
theorem test_tbl_queries :
    tblAt.answer (.tblFwd 0 62#6) = .symbol 0x2B#7 ∧ tblAt.answer (.tblPadSym 0) = .symbol 0x3D#7 ∧
      tblAt.answer (.tblRev 0 0x64#8) = .reverse 29#6 false false ∧
      tblAt.answer (.tblRev 0 0x3D#8) = .reverse 0#6 true false ∧
      tblAt.answer (.tblRev 0 0xC1#8) = .reverse 0#6 false true := by decide

/-! ### The step -/

/-- A table word runs as the first command after reset: `CONSTRUCT` with the standard alphabet, then `EMPTY` is 1. -/
theorem test_step_construct : (nextOf (step (State.reset.withFetchWord 8 0b100))).ret = .done ∧
    ((nextOf (step (State.reset.withFetchWord 8 0b100))).enc 0).com = table := by decide

/-- Rule R260: reset clears a fault, pops nothing, and wins over a `CONSTRUCT` on the same edge. -/
theorem test_step_reset :
    let t := nextOf (step { encAt 2 true 0x6E#8 [0x01#8] with inbox := [.edge true ⟨.enc, 0, 0b100#3, pinsStd⟩] })
    (t.enc 0).com.live = false ∧ (t.enc 0).pos = 0 ∧ (t.enc 0).pad = false ∧ (t.enc 0).src.rp = 0 := by decide

/-- Rule R279: a decoder chained to an encoder pops by advancing it. -/
theorem test_chain :
    let s := (encAt 1 false 0x74#8 [0x65#8]).setDec 0 ⟨table, 0, 29#6, false, .encoder 0⟩
    (nextOf (exec .decPop s)).ret = .byte 0x74#8 ∧ ((nextOf (exec .decPop s)).enc 0).pos = 2 := by decide

/-! ### Witnesses: states and operands that meet the hypotheses of the obligations -/

theorem witness_DecodeAndEncodeAgree : decodePort 0x19#8 = .ok (.tblNop false true) ∧
    decodePort 0x00#8 = .ok .encNop ∧ decodePort 0x1F#8 = .ok (.tblBuild true true) ∧ 32 ≤ (0x20#8).toNat ∧
    32 ≤ (0xFF#8).toNat ∧ 256 ≤ 256 % 2 ^ 9 ∧ 256 ≤ 0xFFFF % 2 ^ 16 :=
  ⟨rfl, rfl, rfl, by decide, by decide, by decide, by decide⟩

theorem witness_ReservedBitsAreIgnored :
    ((0b100#3 : Ctl).getLsbD 2 = (0b111#3 : Ctl).getLsbD 2 ∧ (0b100#3 : Ctl).getLsbD 2 = true) ∧
      ((0b001#3 : Ctl).getLsbD 2 = (0b011#3 : Ctl).getLsbD 2 ∧ (0b001#3 : Ctl).getLsbD 0 = (0b011#3 : Ctl).getLsbD 0) ∧
      (0b000#3 : Ctl).getLsbD 2 = (0b011#3 : Ctl).getLsbD 2 := by decide

/-- The first input of a state. -/
def pending (x : Input) (s : State) : State := { s with inbox := [x] }

def construct (u : UnitKind) : Command := ⟨u, 0, 0b100#3, pinsStd⟩

theorem witness_StepPerformsThePendingInput :
    (pending (.command (construct .enc)) State.reset).inbox = [.command (construct .enc)] ∧
      (pending (.edge false (construct .dec)) State.reset).inbox = [.edge false (construct .dec)] ∧
      (pending (.edge true (construct .val)) State.reset).inbox = [.edge true (construct .val)] ∧
      State.reset.inbox = [] ∧ decodeTableWord 3 0b100 = some (.encConstruct false false) ∧
      (∀ n, none ≠ some n → (State.reset.dec n).needPrime = false) ∧
      (pending (.command (construct .enc)) State.reset).contended = false ∧
      (pending (.edge false (construct .dec)) State.reset).contended = false ∧ State.reset.contended = false ∧
      (State.reset.withFetchWord 3 0b100).contended = false :=
  ⟨rfl, rfl, rfl, rfl, rfl, fun n _ => by cases n <;> rfl, by decide, by decide, by decide, by decide⟩

theorem witness_ForwardMap : (0#6).toNat ≤ 25 ∧ (25#6).toNat ≤ 25 ∧ 26 ≤ (26#6).toNat ∧ (51#6).toNat ≤ 51 ∧
    52 ≤ (52#6).toNat ∧ (61#6).toNat ≤ 61 ∧ (62#6).toNat = 62 ∧ (63#6).toNat = 63 ∧
    (tblAt.tbl 0).com.live = true ∧ (tblAt.tbl 0).com.fault = .none := by decide

/-- The accepted triple, and a symbol candidate at each end of each case. -/
theorem witness_ReverseMap :
    cfgOk (zext8 table.c62) (zext8 table.c63) (zext8 table.cpad) = true ∧ 128 ≤ (0x80#8).toNat ∧ 128 ≤ (0xFF#8).toNat ∧
      0x3D#8 = zext8 table.cpad ∧ (0x41#8).toNat = 0x41 + 0 ∧ (0x5A#8).toNat = 0x41 + 25 ∧ (0x61#8).toNat = 0x61 + 0 ∧
      (0x7A#8).toNat = 0x61 + 25 ∧ (0x30#8).toNat = 0x30 + 0 ∧ (0x39#8).toNat = 0x30 + 9 ∧ 0x2B#8 = zext8 table.c62 ∧
      0x2F#8 = zext8 table.c63 ∧
      (∀ v ∈ [0x40#8, 0x5B#8, 0x60#8, 0x7B#8, 0x3A#8, 0x00#8, 0x7F#8],
        v ≠ zext8 table.cpad ∧ v ≠ zext8 table.c62 ∧ v ≠ zext8 table.c63 ∧
          ¬(0x41 ≤ v.toNat ∧ v.toNat ≤ 0x5A) ∧ ¬(0x61 ≤ v.toNat ∧ v.toNat ≤ 0x7A) ∧
          ¬(0x30 ≤ v.toNat ∧ v.toNat ≤ 0x39)) ∧
      (tblAt.tbl 0).com.rev 0x41#8 = .data 0#6 ∧ (tblAt.tbl 0).com.rev 0x3D#8 = .pad ∧
      (tblAt.tbl 0).com.rev 0x40#8 = .invalid := by decide

theorem witness_TableMapsAreInverse :
    cfgOk (zext8 table.c62) (zext8 table.c63) (zext8 table.cpad) = true ∧ table.rev 0x2F#8 = .data 63#6 ∧
      table.rev 0x3D#8 = .pad := by decide

theorem witness_UrlSafeAlphabet : ∃ c : Common, c.c62 = 0x2D#7 ∧ c.c63 = 0x5F#7 ∧ c.cpad = 0x2E#7 :=
  ⟨⟨true, .none, 0x2D#7, 0x5F#7, 0x2E#7⟩, rfl, rfl, rfl⟩

/-- `TableBuild`, `EncoderConstruction`, `DecoderConstruction`, `ValidatorConstruction`: accepted and failed. -/
theorem witness_constructions :
    constructs (.valConstruct false true) = true ∧ ¬Unheard (driving pinsStd State.reset) (.valConstruct false true) ∧
    accepted (driving pinsStd State.reset) = true ∧ accepted (driving pinsUrl State.reset) = true ∧
      accepted (driving pinsBad State.reset) = false ∧ (driving pinsStd State.reset).cfg.std = true ∧
      ((driving pinsBad State.reset).dec (driving pinsBad State.reset).port).needPrime = false ∧
      ((driving pinsStd State.reset).dec (driving pinsStd State.reset).port).needPrime = false :=
  ⟨rfl, by simp [Unheard, Instr.unit], by decide⟩

theorem witness_OnlyConstructionWritesTheTable :
    exec .encPop (encAt 0 false 0#8 [0x74#8]) = .next (nextOf (exec .encPop (encAt 0 false 0#8 [0x74#8]))) ∧
      ¬(constructs .encPop = true ∧ Drives (encAt 0 false 0#8 [0x74#8]) .encPop .enc 0) :=
  ⟨rfl, by simp [constructs]⟩

theorem witness_ConfigurationPinsAreReadByConstructionOnly :
    constructs .encAdvance = false ∧
      exec .encAdvance (encAt 0 false 0#8 [0x74#8]) = .next (nextOf (exec .encAdvance (encAt 0 false 0#8 [0x74#8]))) :=
  ⟨rfl, rfl⟩

/-- The rows of rule R150. -/
def EncRowMet (s : State) (pos : Fin 4) (pad ended : Bool) : Prop :=
  (s.enc s.port).com.live = true ∧ (s.enc s.port).com.fault = .none ∧ (s.enc s.port).pos = pos ∧
    (s.enc s.port).pad = pad ∧ (s.enc s.port).src.exhausted = ended

theorem witness_EncoderTransitionTable :
    EncRowMet (encAt 0 false 0#8 [0x74#8]) 0 false false ∧ EncRowMet (encAt 0 false 0#8 []) 0 false true ∧
      EncRowMet (encAt 1 false 0x74#8 [0x65#8]) 1 false false ∧ EncRowMet (encAt 1 false 0x6E#8 []) 1 false true ∧
      EncRowMet (encAt 2 false 0x65#8 [0x73#8]) 2 false false ∧ EncRowMet (encAt 2 false 0x67#8 []) 2 false true ∧
      EncRowMet (encAt 2 true 0x6E#8 []) 2 true true ∧ EncRowMet (encAt 3 false 0x73#8 []) 3 false true ∧
      EncRowMet (encAt 3 true 0x6E#8 []) 3 true true := by
  unfold EncRowMet; decide

theorem witness_EncoderEmpty : ((State.reset.enc 0).com.fault = .none ∧ (State.reset.enc 0).com.live = false) ∧
    ((encAt 0 false 0#8 []).enc 0).com.fault = .none ∧ ((encAt 0 false 0#8 []).enc 0).com.live = true := by decide

theorem witness_EncoderEmpty_lasts :
    exec .encPop (encAt 0 false 0x67#8 []) = .next (nextOf (exec .encPop (encAt 0 false 0x67#8 []))) ∧
      ¬(constructs .encPop = true ∧ Drives (encAt 0 false 0x67#8 []) .encPop .enc 0) ∧
      ((encAt 0 false 0x67#8 []).enc 0).pos = 0 ∧ ((encAt 0 false 0x67#8 []).enc 0).src.exhausted = true :=
  ⟨rfl, by simp [constructs], rfl, rfl⟩

theorem witness_PaddingFlagMeansInputEnded :
    exec .encAdvance (encAt 1 false 0x6E#8 []) = .next (nextOf (exec .encAdvance (encAt 1 false 0x6E#8 []))) ∧
      ((nextOf (exec .encAdvance (encAt 1 false 0x6E#8 []))).enc 0).pad = true ∧
      (((encAt 1 false 0x6E#8 []).enc 0).pad = true →
        (((encAt 1 false 0x6E#8 []).enc 0).pos = 2 ∨ ((encAt 1 false 0x6E#8 []).enc 0).pos = 3) ∧
          ((encAt 1 false 0x6E#8 []).enc 0).src.exhausted = true) :=
  ⟨rfl, by decide, by decide⟩

/-- An encoder over an endless source, at a position. -/
def endlessAt (pos : Fin 4) : State :=
  { State.reset with encs := [⟨table, pos, 0x74#8, false, ⟨[], .endless 5, 0⟩⟩] }

theorem witness_EndlessSourceNeverPads (pos : Fin 4) :
    ((endlessAt pos).enc (endlessAt pos).port).com.live = true ∧
      ((endlessAt pos).enc (endlessAt pos).port).com.fault = .none ∧
      ((endlessAt pos).enc (endlessAt pos).port).src.tail = .endless 5 ∧
      ((endlessAt pos).enc (endlessAt pos).port).pad = false :=
  ⟨rfl, rfl, rfl, rfl⟩

theorem witness_EncoderFrame : ∀ i ∈ [Instr.encNop, .encFront, .encAdvance, .encPop],
    (i = .encNop ∨ encStrobed i) ∧
      exec i (encAt 0 false 0#8 [0x74#8]) = .next (nextOf (exec i (encAt 0 false 0#8 [0x74#8]))) :=
  fun i h => ⟨by revert i; simp [encStrobed], by revert i; simp only [List.forall_mem_cons]; exact ⟨rfl, rfl, rfl, rfl, by simp⟩⟩

/-- `EncodedLength`, `EncodedTail`, `DecodeOfEncodeIsIdentity`, `ChainedDecoderReturnsTheBytes`,
`ValidatorDecidesWellFormedness`, `EncoderOutputIsValid`: the configuration, and a prefix of whole groups. -/
theorem witness_runs : accepted (driving pinsUrl State.reset) = true ∧
    ((driving pinsUrl State.reset).dec 0).needPrime = false ∧ ([] : List Byte).length % 3 = 0 ∧
    [0x74#8, 0x65#8, 0x73#8].length % 3 = 0 := by decide

theorem witness_PrimeConsumesOnlyData :
    (decAt 0 0#6 [0x64#8]).decHead 0 = some (.data 29#6) ∧ (decAt 0 0#6 []).decHead 0 = none ∧
      (decAt 0 0#6 [0x3D#8]).decHead 0 = some .pad ∧ (decAt 0 0#6 [0x21#8]).decHead 0 = some .invalid := by decide

/-- The rows of rule R181. -/
def DecRowMet (s : State) (pos : Fin 3) (head : Option SymClass) : Prop :=
  (s.dec s.port).com.live = true ∧ (s.dec s.port).com.fault = .none ∧ (s.dec s.port).needPrime = false ∧
    (s.dec s.port).pos = pos ∧ s.decHead s.port = head

theorem witness_DecoderTransitionTable :
    DecRowMet (decAt 1 29#6 []) 1 none ∧ DecRowMet (decAt 2 28#6 [0x3D#8]) 2 (some .pad) ∧
      DecRowMet (decAt 0 0#6 [0x21#8]) 0 (some .invalid) ∧ DecRowMet (decAt 0 29#6 [0x47#8]) 0 (some (.data 6#6)) ∧
      DecRowMet (decAt 1 6#6 [0x2F#8]) 1 (some (.data 63#6)) ∧
      DecRowMet (decAt 2 21#6 [0x41#8]) 2 (some (.data 0#6)) := by
  unfold DecRowMet; decide

/-- The wrap: a data symbol for the prime, and a padding symbol. -/
theorem witness_DecoderTransitionTable_wrap :
    State.decHead { decConsumed (decAt 2 21#6 [0x41#8, 0x64#8]) 0 0#6 0 with tick := 1 } 0 = some (.data 29#6) ∧
      State.decHead { decConsumed (decAt 2 21#6 [0x41#8, 0x3D#8]) 0 0#6 0 with tick := 1 } 0 = some .pad := by decide

/-- `EncoderTransitionTable`, `DecoderTransitionTable`, `ValidatorTransitionTable`: not live, and faulted. -/
theorem witness_tables_notLive_faulted :
    ((State.reset.enc 0).com.fault = .none ∧ (State.reset.enc 0).com.live = false) ∧
      ((State.reset.dec 0).com.fault = .none ∧ (State.reset.dec 0).com.live = false ∧
        (State.reset.dec 0).needPrime = false) ∧
      ((State.reset.val 0).com.fault = .none ∧ (State.reset.val 0).com.live = false) ∧
      ((nextOf (exec .encPop State.reset)).enc 0).com.fault ≠ .none ∧
      (((nextOf (exec .decPop State.reset)).dec 0).com.fault ≠ .none ∧
        ((nextOf (exec .decPop State.reset)).dec 0).needPrime = false) ∧
      ((nextOf (exec (.valStep false) State.reset)).val 0).com.fault ≠ .none ∧
      encStrobed .encPop ∧ decStrobed .decPop ∧
      (((encAt 2 true 0x6E#8 []).enc 0).pad = true →
        ((encAt 2 true 0x6E#8 []).enc 0).pos = 2 ∨ ((encAt 2 true 0x6E#8 []).enc 0).pos = 3) :=
  ⟨by decide, by decide, by decide, by decide, by decide, by decide, .inr (.inr rfl), .inr (.inr rfl), by decide⟩

theorem witness_DecoderEmpty_lasts :
    Instr.unit .decPop = .dec ∧ constructs .decPop = false ∧
      ((decAt 1 29#6 []).dec 0).needPrime = false ∧ (decAt 1 29#6 []).decHead 0 = none ∧
      exec .decPop (decAt 1 29#6 []) = .next (nextOf (exec .decPop (decAt 1 29#6 []))) :=
  ⟨rfl, rfl, rfl, by decide, rfl⟩

theorem witness_DecoderEmpty :
    ((State.reset.dec 0).com.fault = .none ∧ (State.reset.dec 0).needPrime = false ∧
        (State.reset.dec 0).com.live = false) ∧
      ((decAt 2 28#6 [0x3D#8]).dec 0).com.fault = .none ∧ ((decAt 2 28#6 [0x3D#8]).dec 0).needPrime = false ∧
      ((decAt 2 28#6 [0x3D#8]).dec 0).com.live = true := by decide

/-- A decoder that owes a prime. -/
def busyAt : State := { State.reset with decs := [⟨table, 0, 51#6, true, .stream ⟨[0x64#8], .ends, 0⟩⟩] }

theorem witness_BusyDecoderPrimes : Instr.unit .decPop = .dec ∧ (busyAt.dec busyAt.port).needPrime = true ∧
    ¬(Instr.decAdvance = .decFront ∨ Instr.decAdvance = .decPop) ∧
    busyAt.answer (.busy .dec 0) = .bit true ∧ step busyAt = .next (nextOf (step busyAt)) ∧ busyAt.inbox = [] ∧
    busyAt.contended = false ∧ ∀ m, m ≠ 0 → (busyAt.dec m).needPrime = false :=
  ⟨rfl, rfl, by simp, rfl, rfl, rfl, by decide, fun m h => by cases m with | zero => exact absurd rfl h | succ m => rfl⟩

/-- Rules R7, R110: with nothing pending, and while another unit is driven, a busy decoder primes on its own. -/
theorem test_prime_needs_no_command :
    (nextOf (step busyAt)).dec 0 = ⟨table, 0, 29#6, false, .stream ⟨[0x64#8], .ends, 1⟩⟩ ∧
      (nextOf (step { busyAt with inbox := [.edge false ⟨.dec, 1, 0b001#3, pinsStd⟩] })).dec 0 =
        ⟨table, 0, 29#6, false, .stream ⟨[0x64#8], .ends, 1⟩⟩ := by decide

/-- Rule R273: a `POP` strobed while busy takes no byte and is given the unspecified pin. -/
theorem test_pop_while_busy : (nextOf (exec .decPop busyAt)).ret = .byte (Config.freeDecFront 0 0) ∧
    ((nextOf (exec .decPop busyAt)).dec 0).pos = 0 := ⟨rfl, rfl⟩

/-- Rule R233: with `rst = 1` it is reset and takes nothing. -/
theorem test_reset_wins_over_prime :
    ((nextOf (step { busyAt with inbox := [.edge true (construct .enc)] })).dec 0).src = (busyAt.dec 0).src := by decide

/-- Decoder 0 with these edges pending. -/
def edges (xs : List Input) : State := { decAt 2 21#6 [0x7A#8, 0x64#8] with inbox := xs }

def dec0 (ctl : Ctl) : Command := ⟨.dec, 0, ctl, pinsStd⟩

theorem edges_idle (xs : List Input) : ∀ m, ((edges xs).dec m).needPrime = false
  | 0 => rfl
  | _ + 1 => rfl

/-- The first edge leaves a prime owed, or none; a second edge is pending, or nothing more. -/
theorem witness_PinLevelRefinesOperationLevel :
    decode .dec 0b000#3 ≠ .decFront ∧ decode .dec 0b000#3 ≠ .decPop ∧ (∀ xs m, ((edges xs).dec m).needPrime = false) ∧
      ∀ xs ∈ [[.edge false (dec0 0b000#3)], []], ∀ w ∈ [0b011#3, 0b010#3],
        step (edges (.edge false (dec0 w) :: xs)) = .next (nextOf (step (edges (.edge false (dec0 w) :: xs)))) ∧
        ((nextOf (step (edges (.edge false (dec0 w) :: xs)))).dec 0).needPrime = (w == 0b011#3) :=
  ⟨by decide, by decide, edges_idle, by
    simp only [List.forall_mem_cons]
    exact ⟨⟨⟨rfl, by decide⟩, ⟨rfl, by decide⟩, by simp⟩, ⟨⟨rfl, by decide⟩, ⟨rfl, by decide⟩, by simp⟩, by simp⟩⟩

theorem witness_NoPrimeIsOwedBetweenOperations : (∀ n, ((decAt 2 21#6 [0x7A#8]).dec n).needPrime = false) ∧
    exec .decAdvance (decAt 2 21#6 [0x7A#8]) = .next (nextOf (exec .decAdvance (decAt 2 21#6 [0x7A#8]))) :=
  ⟨fun n => by cases n <;> rfl, rfl⟩

theorem witness_PaddingEndsTheByteStream :
    Instr.unit .decPop = .dec ∧ constructs .decPop = false ∧ ((decAt 2 28#6 [0x3D#8]).dec 0).needPrime = false ∧
      (decAt 2 28#6 [0x3D#8]).decHead 0 = some .pad ∧ ((decAt 2 28#6 [0x3D#8]).dec 0).com.fault = .none ∧
      ((decAt 2 28#6 [0x3D#8]).dec 0).com.live = true ∧
      exec .decPop (decAt 2 28#6 [0x3D#8]) = .next (nextOf (exec .decPop (decAt 2 28#6 [0x3D#8]))) :=
  ⟨rfl, rfl, rfl, by decide, rfl, rfl, rfl⟩

theorem witness_DecoderFrame : ∀ i ∈ [Instr.decNop, .decFront, .decAdvance, .decPop],
    (i = .decNop ∨ decStrobed i) ∧ ((decAt 0 29#6 [0x47#8]).dec 0).needPrime = false ∧
      exec i (decAt 0 29#6 [0x47#8]) = .next (nextOf (exec i (decAt 0 29#6 [0x47#8]))) :=
  fun i h => ⟨by revert i; simp [decStrobed], rfl,
    by revert i; simp only [List.forall_mem_cons]; exact ⟨rfl, rfl, rfl, rfl, by simp⟩⟩

/-- `bg==` is accepted by a validator; data symbols, then a padding symbol at the head of the rest; and no rest. -/
theorem witness_DecodedLength :
    (driving pinsStd State.reset).isValid 0 [0x62#8, 0x67#8, 0x3D#8, 0x3D#8] = true ∧
    ((driving pinsStd State.reset).dec 0).needPrime = false ∧ accepted (driving pinsStd State.reset) = true ∧
    (∀ v ∈ [0x62#8, 0x67#8], ∃ i, (built (driving pinsStd State.reset)).rev v = .data i) ∧
    (∀ v ∈ [0x3D#8, 0x41#8].head?, (built (driving pinsStd State.reset)).rev v = .pad) ∧
    (∀ v ∈ ([] : List Byte).head?, (built (driving pinsStd State.reset)).rev v = .pad) :=
  ⟨by decide, rfl, by decide, by simp only [List.forall_mem_cons]; exact ⟨⟨27#6, by decide⟩, ⟨32#6, by decide⟩, by simp⟩,
    by decide, by simp⟩

theorem witness_SourcePortPrimitives :
    (⟨[0x74#8], .ends, 0⟩ : Source).items[0]? = some 0x74#8 ∧
      (⟨[], .endless 5, 3⟩ : Source).tail = .endless 5 ∧ (⟨[], .endless 5, 3⟩ : Source).items[3]? = none ∧
      (encAt 0 false 0#8 [0x74#8]).answer (.encFront 0) = .symbol 0x64#7 ∧
      exec .encAdvance { encAt 0 false 0#8 [0x74#8] with port := 0 } =
        .next (nextOf (exec .encAdvance { encAt 0 false 0#8 [0x74#8] with port := 0 })) :=
  ⟨rfl, rfl, rfl, by decide, rfl⟩

/-- The rows of rule R210. -/
def ValRowMet (s : State) (npad : Fin 4) (head : Option SymClass) : Prop :=
  (s.val s.port).com.live = true ∧ (s.val s.port).com.fault = .none ∧ (s.val s.port).npad = npad ∧
    s.head (s.val s.port).com (s.val s.port).src = head

theorem witness_ValidatorTransitionTable :
    ValRowMet (valAt 3 0 false []) 0 none ∧ ValRowMet (valAt 3 0 false [0x41#8]) 0 (some (.data 0#6)) ∧
      ValRowMet (valAt 0 1 false [0x41#8]) 1 (some (.data 0#6)) ∧
      ValRowMet (valAt 0 3 true [0x41#8]) 3 (some (.data 0#6)) ∧ ValRowMet (valAt 2 0 false [0x3D#8]) 0 (some .pad) ∧
      ValRowMet (valAt 3 1 false [0x3D#8]) 1 (some .pad) ∧ ValRowMet (valAt 0 2 false [0x3D#8]) 2 (some .pad) ∧
      ValRowMet (valAt 1 3 false [0x3D#8]) 3 (some .pad) ∧ ValRowMet (valAt 1 0 false [0x80#8]) 0 (some .invalid) := by
  unfold ValRowMet; decide

theorem witness_ValidatorAndTableFrame :
    exec (.valStep false) (valAt 3 0 false [0x3D#8]) = .next (nextOf (exec (.valStep false) (valAt 3 0 false [0x3D#8]))) ∧
      ((valAt 3 0 false [0x3D#8]).val 0).src ≠ .encoder 0 ∧
      (nextOf (exec (.valStep false) (valAt 3 0 false []))).ret ≠ .done ∧
      exec (.valConstruct false false) tblAt = .next (nextOf (exec (.valConstruct false false) tblAt)) ∧
      exec (.tblBuild false false) tblAt = .next (nextOf (exec (.tblBuild false false) tblAt)) :=
  ⟨rfl, by decide, by decide, rfl, rfl⟩

theorem witness_NopChangesNothing : (0b000#3 : Ctl).getLsbD 2 = false ∧ (0b000#3 : Ctl).getLsbD 0 = false ∧
    (0b010#3 : Ctl).getLsbD 2 = false ∧ (0b010#3 : Ctl).getLsbD 0 = false ∧ (0b011#3 : Ctl).getLsbD 2 = false ∧
    (State.reset.dec 0).needPrime = false := by decide

theorem witness_PrematureConditions :
    encStrobed .encFront ∧ (State.reset.enc 0).com.fault = .none ∧ decStrobed .decAdvance ∧
      ((decAt 2 28#6 [0x3D#8]).dec 0).com.fault = .none ∧ ((decAt 2 28#6 [0x3D#8]).dec 0).needPrime = false ∧
      valStepped (.valStep true) ∧ ((valAt 3 0 false []).val 0).com.fault = .none ∧
      exec .encFront State.reset = .next (nextOf (exec .encFront State.reset)) ∧
      exec .decAdvance (decAt 2 28#6 [0x3D#8]) = .next (nextOf (exec .decAdvance (decAt 2 28#6 [0x3D#8]))) ∧
      exec (.valStep true) (valAt 3 0 false []) = .next (nextOf (exec (.valStep true) (valAt 3 0 false []))) :=
  ⟨.inl rfl, rfl, .inr (.inl rfl), rfl, rfl, ⟨true, rfl⟩, rfl, rfl, rfl, rfl⟩

/-- Each fault is raised: `CONFIG`, `MALFORMED`, `PREMATURE`. -/
theorem witness_FaultCauses :
    ¬Unheard (decAt 0 0#6 [0x21#8]) .decFront ∧ ¬Unheard State.reset .encPop ∧
      (nextOf (exec (.tblBuild false false) (driving pinsBad State.reset))).ret = .raised .config ∧
      (nextOf (exec .decFront (decAt 0 0#6 [0x21#8]))).ret = .raised .malformed ∧
      (nextOf (exec .encPop State.reset)).ret = .raised .premature ∧
      (pending (.observe (.decFront 0)) busyAt).inbox = [.observe (.decFront 0)] ∧
      step { pending (.observe (.decFront 0)) busyAt with inbox := [] } = .next (nextOf (step busyAt)) ∧
      busyAt.inbox = [] ∧ step busyAt = .next (nextOf (step busyAt)) :=
  ⟨by simp [Unheard, decAt, State.dec, unitGet, State.reset], by simp [Unheard, Instr.unit], by decide, by decide,
    by decide, rfl, rfl, rfl, rfl⟩

/-- An encoder faulted by reading past its end. -/
def faultedAt : State :=
  { State.reset with encs := [⟨{ table with fault := .premature }, 0, 0x67#8, false, ⟨[], .ends, 0⟩⟩] }

theorem witness_FaultedUnitIgnoresCommands :
    constructs .encPop = false ∧ ¬Unheard faultedAt .encPop ∧ encStrobed .encPop ∧
      (faultedAt.common .enc faultedAt.port).fault ≠ .none :=
  ⟨rfl, by simp [Unheard, Instr.unit], .inr (.inr rfl), by decide⟩

theorem witness_FirstFaultIsKept :
    (faultedAt.common .enc 0).fault ≠ .none ∧ exec .encPop faultedAt = .next (nextOf (exec .encPop faultedAt)) ∧
      ¬(constructs .encPop = true ∧ Drives faultedAt .encPop .enc 0) ∧ table.fault = .none ∧ faultedAt.inbox = [] ∧
      step faultedAt = .next (nextOf (step faultedAt)) :=
  ⟨by decide, rfl, by simp [constructs], rfl, rfl, rfl⟩

theorem witness_FaultingOperationWritesOnlyFault :
    constructs .decFront = false ∧ ¬Unheard (decAt 0 0#6 [0x21#8]) .decFront ∧
      exec .decFront (decAt 0 0#6 [0x21#8]) = .next (nextOf (exec .decFront (decAt 0 0#6 [0x21#8]))) ∧
      (nextOf (exec .decFront (decAt 0 0#6 [0x21#8]))).ret = .raised .malformed :=
  ⟨rfl, by simp [Unheard, decAt, State.dec, unitGet, State.reset], rfl, by decide⟩

theorem witness_FrontIsIdempotent :
    exec .encFront (encAt 0 false 0#8 [0x74#8]) = .next (nextOf (exec .encFront (encAt 0 false 0#8 [0x74#8]))) ∧
      (nextOf (exec .encFront (encAt 0 false 0#8 [0x74#8]))).ret = .symbol 0x64#7 ∧
      ((decAt 1 63#6 [0x41#8]).dec 0).needPrime = false ∧
      exec .decFront (decAt 1 63#6 [0x41#8]) = .next (nextOf (exec .decFront (decAt 1 63#6 [0x41#8]))) ∧
      (nextOf (exec .decFront (decAt 1 63#6 [0x41#8]))).ret = .byte 0xF0#8 :=
  ⟨rfl, by decide, rfl, rfl, by decide⟩

/-- An edge that pops, on each of the three units with a source. -/
theorem witness_SourcePopPin :
    edge (decode .enc 0b001#3) (encAt 0 false 0#8 [0x74#8]) =
        .next (nextOf (edge (decode .enc 0b001#3) (encAt 0 false 0#8 [0x74#8]))) ∧
      (encAt 0 false 0#8 [0x74#8]).srcPop .enc 0 false 0b001#3 = true ∧
      edge (decode .dec 0b000#3) busyAt = .next (nextOf (edge (decode .dec 0b000#3) busyAt)) ∧
      busyAt.srcPop .dec 0 false 0b000#3 = true ∧
      edge (decode .val 0b001#3) (valAt 0 0 false [0x21#8]) =
        .next (nextOf (edge (decode .val 0b001#3) (valAt 0 0 false [0x21#8]))) ∧
      (valAt 0 0 false [0x21#8]).srcPop .val 0 false 0b001#3 = true ∧
      faultedAt.busy .enc 0 = false ∧ (faultedAt.common .enc 0).fault ≠ .none ∧ State.reset.busy .dec 0 = false ∧
      (State.reset.common .dec 0).live = false ∧
      (nextOf (edge (decode .dec 0b001#3) (decAt 0 0#6 [0x21#8]))).ret = .raised .malformed :=
  ⟨rfl, by decide, rfl, by decide, rfl, by decide, by decide, by decide, by decide, by decide, by decide⟩

/-- A decoder chained to encoder 0, encoder 1 beside it. -/
def chained : State := (encAt 1 false 0x74#8 [0x65#8]).setDec 0 ⟨table, 0, 29#6, false, .encoder 0⟩

theorem witness_OtherUnitsAreUntouched :
    exec .decPop chained = .next (nextOf (exec .decPop chained)) ∧ ¬Drives chained .decPop .enc 1 ∧
      (chained.dec chained.port).src ≠ .encoder 1 ∧ ¬Drives chained .decPop .dec 1 ∧ ¬Drives chained .decPop .val 0 ∧
      ¬Drives chained .decPop .tbl 0 :=
  ⟨rfl, by simp [Drives, Instr.unit], by decide, by simp [Drives, chained, encAt, State.setDec, State.reset],
    by simp [Drives, Instr.unit], by simp [Drives, Instr.unit]⟩

/-- Rule R279: an unfaulted encoder over a conforming source is a conforming source. -/
theorem chained_conforming : chained.Conforming := by
  refine ⟨fun u n tick _ h => ?_, fun u n tick b _ h => ?_, fun u n _ => .refl chained u n, by decide,
    fun c rest h => by cases h <;> contradiction⟩ <;>
    cases u <;> cases n <;> exact h

/-- `EncoderEmpty`, `PaddingFlagMeansInputEnded`, `DecoderEmpty`: a step in which the sources conform, a chained one too, from
a live unit that has ended. -/
theorem witness_conforming :
    (encAt 2 true 0x6E#8 []).Conforming ∧ (decAt 1 29#6 []).Conforming ∧ chained.Conforming ∧
      (∃ t, step (encAt 2 true 0x6E#8 []) = .next t) ∧ (∃ t, step (decAt 1 29#6 []) = .next t) ∧
      (∃ t, step chained = .next t) ∧ ¬Constructing (decAt 1 29#6 []) .dec 0 ∧
      ((encAt 2 true 0x6E#8 []).enc 0).com.live = true ∧ (decAt 1 29#6 []).decHead 0 = none := by
  refine ⟨State.conforming_of_streams _ ?_ rfl (by decide), State.conforming_of_streams _ ?_ rfl (by decide),
    chained_conforming, ⟨_, rfl⟩, ⟨_, rfl⟩, ⟨_, rfl⟩, ?_, rfl, by decide⟩
  · rintro ⟨u, _ | n⟩ k <;> cases u <;> simp [State.WiredTo, encAt, State.reset, State.dec, State.val, unitGet, Dec.reset, Val.reset]
  · rintro ⟨u, _ | n⟩ k <;> cases u <;> simp [State.WiredTo, decAt, State.reset, State.dec, State.val, unitGet, Dec.reset, Val.reset]
  · rintro ⟨c, rest, h | h, -⟩ <;> cases h

/-- Rule R62 (c): a wiring that moves a live encoder's source on over equal items is no conforming one, though the port shows
the same; one that lists a further item behind them is no breach of (c). -/
theorem test_pop_by_another_agent :
    let s := encAt 0 false 0#8 [0x41#8, 0x41#8]
    let popped := pending (.attachEnc 0 ⟨[0x41#8, 0x41#8], .ends, 1⟩) s
    let grown := pending (.attachEnc 0 ⟨[0x41#8, 0x41#8, 0x42#8], .ends, 0⟩) s
    popped.wiring.srcShows .enc 0 = popped.srcShows .enc 0 ∧ ¬popped.Conforming ∧
      grown.SourceKept grown.wiring .enc 0 :=
  ⟨by decide, fun h => absurd (h.owned .enc 0 rfl).1 (by decide), rfl, ⟨[0x42#8], rfl⟩⟩

/-- Rule R63: an encoder that has padded and whose source has an item again finishes the group and takes nothing. -/
theorem test_refill_after_padding : (nextOf (exec .encAdvance (encAt 3 true 0x6E#8 [0x01#8]))).enc 0 =
    (encAt 0 false 0x6E#8 [0x01#8]).enc 0 := by decide

/-! ### One driver (rule R272) -/

/-- The step is refused. -/
def Refuses (s : State) : Prop := step s = .refused .twoDrivers

/-- `chained` with its decoder busy. -/
def chainedBusy : State := chained.setDec 0 ⟨table, 0, 29#6, true, .encoder 0⟩

/-- Refused: an `ADVANCE` of the encoder behind a live decoder, a `CONSTRUCT` of it at the edge of a prime, a second wire. -/
theorem test_two_drivers :
    Refuses (pending (.command ⟨.enc, 0, 0b001#3, pinsStd⟩) chained) ∧
      Refuses (pending (.edge false (construct .enc)) chainedBusy) ∧
      Refuses (pending (.attachVal 0 (.encoder 0)) chained) ∧ Refuses (pending (.attachDec 1 (.encoder 0)) chained) :=
  ⟨rfl, rfl, rfl, rfl⟩

/-- Not refused: program P3 constructs the encoder behind a wired decoder, then the decoder. -/
theorem test_chain_construct :
    let s := { chained.setDec 0 { Dec.reset with src := .encoder 0 } with
      inbox := [.command (construct .enc), .command (construct .dec)] }
    (nextOf (step (nextOf (step s)))).dec 0 = ⟨table, 0, 25#6, false, .encoder 0⟩ ∧
      ((nextOf (step (nextOf (step s)))).enc 0).pos = 1 := by decide

theorem witness_NoThirdOutcome :
    (pending (.attachVal 0 (.encoder 0)) chained).contended = true ∧ chained.contended = false ∧
      (∀ p k, ¬State.reset.WiredTo p k) ∧
      ∀ n w rest, State.reset.inbox ≠ .attachDec n w :: rest ∧ State.reset.inbox ≠ .attachVal n w :: rest :=
  ⟨by decide, by decide,
    by
      rintro ⟨u, _ | n⟩ k <;> cases u <;>
        simp [State.WiredTo, State.reset, State.dec, State.val, unitGet, Dec.reset, Val.reset],
    fun _ _ _ => ⟨nofun, nofun⟩⟩

theorem witness_TwoDriversAreRefused :
    Refuses (pending (.attachDec 1 (.encoder 0)) chained) ∧
      (pending (.command ⟨.enc, 0, 0b001#3, pinsStd⟩) chained).inbox = [.command ⟨.enc, 0, 0b001#3, pinsStd⟩] ∧
      (pending (.edge false (construct .enc)) chainedBusy).inbox = [.edge false (construct .enc)] ∧ chained.inbox = [] ∧
      (pending (.attachVal 0 (.encoder 0)) chained).inbox = [.attachVal 0 (.encoder 0)] ∧
      (pending (.attachDec 1 (.encoder 0)) chained).inbox = [.attachDec 1 (.encoder 0)] ∧
      step chainedBusy = .next (nextOf (step chainedBusy)) ∧ chainedBusy.inbox = [] ∧
      step (pending (.edge false (construct .enc)) chained) =
        .next (nextOf (step (pending (.edge false (construct .enc)) chained))) ∧
      (construct .enc).ctl ≠ 0#3 :=
  ⟨rfl, rfl, rfl, rfl, rfl, rfl, rfl, rfl, rfl, by decide⟩

/-- Two states that differ in another unit only. -/
theorem witness_OutcomeDependsOnTheDrivenUnitAlone :
    chained.port = (chained.setVal 0 Val.reset).port ∧ chained.cfg = (chained.setVal 0 Val.reset).cfg ∧
      chained.tick = (chained.setVal 0 Val.reset).tick ∧ chained.ret = (chained.setVal 0 Val.reset).ret ∧
      chained ≠ chained.setVal 3 Val.reset ∧ chained.dec 0 = (chained.setVal 3 Val.reset).dec 0 ∧
      (∀ k, (chained.dec 0).src = .encoder k → chained.enc k = (chained.setVal 3 Val.reset).enc k) ∧
      chained.enc 0 = (chained.setVal 3 Val.reset).enc 0 ∧ tblAt.val 0 = (tblAt.setEnc 3 Enc.reset).val 0 ∧
      tblAt.tbl 0 = (tblAt.setEnc 3 Enc.reset).tbl 0 :=
  ⟨rfl, rfl, rfl, rfl, by decide, rfl, fun _ _ => rfl, rfl, rfl, rfl⟩

theorem witness_UnspecifiedRegistersAreNotObserved :
    (State.reset.enc 0).com.live = false ∧ (State.reset.dec 0).com.live = false ∧
      (State.reset.dec 0).needPrime = false ∧
      exec (.encConstruct false false) State.reset = .next (nextOf (exec (.encConstruct false false) State.reset)) ∧
      exec .decPop State.reset = .next (nextOf (exec .decPop State.reset)) :=
  ⟨rfl, rfl, rfl, rfl, rfl⟩

/-- Two states that differ in what reset leaves unspecified, in a unit of every type, with a decoder's edge pending. -/
def veiled (a b q : Sym) (p : Byte) (x : Idx) : State :=
  { encs := [⟨⟨false, .none, a, b, q⟩, 0, p, false, .nothing⟩]
    decs := [⟨⟨false, .config, a, b, q⟩, 0, x, false, .encoder 0⟩]
    vals := [⟨⟨false, .none, a, b, q⟩, 0, 0, false, .stream .nothing⟩]
    tbls := [⟨⟨false, .config, a, b, q⟩⟩]
    inbox := [.edge false (construct .dec)], port := 0, cfg := pinsStd, ret := .nothing, tick := 0 }

theorem witness_UnspecifiedRegistersNeverShow :
    let s := veiled 0x00#7 0x00#7 0x00#7 0x00#8 0#6
    let s' := veiled 0x7F#7 0x41#7 0x3D#7 0xFF#8 63#6
    s ≠ s' ∧ Alike s s' ∧
      exec (.encConstruct false false) s = .next (nextOf (exec (.encConstruct false false) s)) ∧
      exec (.encConstruct false false) s' = .next (nextOf (exec (.encConstruct false false) s')) ∧
      edge (.decConstruct false false) s = .next (nextOf (edge (.decConstruct false false) s)) ∧
      edge (.decConstruct false false) s' = .next (nextOf (edge (.decConstruct false false) s')) ∧
      step s = .next (nextOf (step s)) ∧ step s' = .next (nextOf (step s')) :=
  ⟨by decide, ⟨by decide, fun n => by cases n <;> simp [veiled, AlikeCommon, State.enc, State.dec, State.val, State.tbl, unitGet, Dec.reset]⟩,
    rfl, rfl, rfl, rfl, rfl, rfl⟩

theorem witness_HardwareReset :
    (pending (.edge true (construct .enc)) faultedAt).inbox = [.edge true (construct .enc)] := rfl

/-- A state with live units of every type that meets the invariant, and a step from it. -/
theorem witness_StepKeepsInvariant :
    (pending (.command ⟨.dec, 0, 0b011#3, pinsStd⟩) chained).Inv ∧
      step (pending (.command ⟨.dec, 0, 0b011#3, pinsStd⟩) chained) =
        .next (nextOf (step (pending (.command ⟨.dec, 0, 0b011#3, pinsStd⟩) chained))) :=
  ⟨by decide, rfl⟩

end Sys2Proof.Tests
end

section
/-! The packing identity of rule R68. Every index and every byte is a quotient and a remainder of its neighbours
(the `toNat` laws of the packing), and a concatenation weighs them by place, so both sides are one number. -/

namespace Sys2Proof.Machine

/-- The two parts of a concatenation are its digits, the left one weighed by the width of the right one. -/
theorem toNat_append_weight {m n : Nat} (x : BitVec m) (y : BitVec n) :
    (x ++ y).toNat = x.toNat * 2 ^ n + y.toNat := append_toNat x y rfl

/-- Rule R68, encoder: cutting three bytes into four indices keeps the 24 bits. -/
theorem encIdx_append_eq_bytes (b0 b1 b2 : Byte) :
    (encIdx0 b0 ++ encIdx1 b0 b1 ++ encIdx2 b1 b2 ++ encIdx3 b2 : BitVec (6 + 6 + 6 + 6)) = b0 ++ b1 ++ b2 := by
  apply BitVec.eq_of_toNat_eq
  simp only [toNat_append_weight, encIdx0_toNat, encIdx1_toNat, encIdx2_toNat, encIdx3_toNat]
  omega

/-- Rule R68, decoder: joining four indices into three bytes keeps the 24 bits. -/
theorem decByte_append_eq_indices (i0 i1 i2 i3 : Idx) :
    (decByte0 i0 i1 ++ decByte1 i1 i2 ++ decByte2 i2 i3 : BitVec (8 + 8 + 8)) = i0 ++ i1 ++ i2 ++ i3 := by
  apply BitVec.eq_of_toNat_eq
  simp only [toNat_append_weight, decByte0_toNat, decByte1_toNat, decByte2_toNat]
  omega

/-- Settles O15: each direction is the equality of the two place-value sums. -/
theorem packingIsMostSignificantBitFirst : Obligations.PackingIsMostSignificantBitFirst :=
  ⟨encIdx_append_eq_bytes, decByte_append_eq_indices⟩

end Sys2Proof.Machine
end

section
/-! The operation map (rules R95, R97) and the pin `src_pop` (rule R102). `Instr.heeded` clears the bits of a command that
no meaning looks at, so two words alike in the heeded bits do the same. For `src_pop` each unit has two lemmas: where the
pin is 1 the edge completes an operation that pops, and where it is 0 the edge leaves the source where it was. -/

namespace Sys2Proof

/-! ### The bits of a command that are heeded -/

/-- The command with the bits that rules R95 and R97 ignore at 0. -/
def Instr.heeded : Instr → Instr
  | .encConstruct _ _ => .encConstruct false false
  | .decConstruct _ _ => .decConstruct false false
  | .valNop _ => .valNop false
  | .valStep _ => .valStep false
  | .valConstruct _ _ => .valConstruct false false
  | .tblNop _ _ => .tblNop false false
  | .tblBuild _ _ => .tblBuild false false
  | .encNop => .encNop
  | .encAdvance => .encAdvance
  | .encFront => .encFront
  | .encPop => .encPop
  | .decNop => .decNop
  | .decAdvance => .decAdvance
  | .decFront => .decFront
  | .decPop => .decPop

/-- With `start = 1` neither `rd` nor `adv` is heeded, on any port (rule R95). -/
theorem heeded_decode_start (u : UnitKind) {w w' : Ctl} (h : w.getLsbD 2 = true) (h' : w'.getLsbD 2 = true) :
    (decode u w).heeded = (decode u w').heeded := by
  cases u <;> simp only [decode, h, h'] <;> rfl

/-- A validator heeds no `rd` (rule R97). -/
theorem heeded_decodeVal (start rd rd' adv : Bool) :
    (decodeVal start rd adv).heeded = (decodeVal start rd' adv).heeded := by
  cases start <;> cases adv <;> rfl

/-- A table heeds neither `rd` nor `adv` (rule R97). -/
theorem heeded_decodeTbl (start rd rd' adv adv' : Bool) :
    (decodeTbl start rd adv).heeded = (decodeTbl start rd' adv').heeded := by
  cases start <;> rfl

theorem decode_unit (u : UnitKind) (w : Ctl) : (decode u w).unit = u := by
  cases u <;> simp only [decode] <;>
    cases w.getLsbD 2 <;> cases w.getLsbD 1 <;> cases w.getLsbD 0 <;> rfl

/-! ### The words that may pop -/

/-- The word has `start = 0` and `adv = 1`: `ADVANCE`, `POP` or `STEP` (rule R95). -/
def advances (w : Ctl) : Bool := !w.getLsbD 2 && w.getLsbD 0

/-- The encoder's column of rule R95, by whether the word advances. -/
theorem decode_enc_cases (w : Ctl) :
    (advances w = true ∧ (decode .enc w = .encAdvance ∨ decode .enc w = .encPop)) ∨
      (advances w = false ∧ (decode .enc w = .encNop ∨ decode .enc w = .encFront ∨
        ∃ rd adv, decode .enc w = .encConstruct rd adv)) := by
  simp only [advances, decode]
  cases w.getLsbD 2 <;> cases w.getLsbD 1 <;> cases w.getLsbD 0 <;> simp [decodeEnc]

/-- The decoder's column of rule R95, by whether the word advances. -/
theorem decode_dec_cases (w : Ctl) :
    (advances w = true ∧ (decode .dec w = .decAdvance ∨ decode .dec w = .decPop)) ∨
      (advances w = false ∧ (decode .dec w = .decNop ∨ decode .dec w = .decFront ∨
        ∃ rd adv, decode .dec w = .decConstruct rd adv)) := by
  simp only [advances, decode]
  cases w.getLsbD 2 <;> cases w.getLsbD 1 <;> cases w.getLsbD 0 <;> simp [decodeDec]

/-- The validator's column of rule R95, by whether the word advances. -/
theorem decode_val_cases (w : Ctl) :
    (advances w = true ∧ ∃ rd, decode .val w = .valStep rd) ∨
      (advances w = false ∧ ((∃ rd, decode .val w = .valNop rd) ∨ ∃ rd adv, decode .val w = .valConstruct rd adv)) := by
  simp only [advances, decode]
  cases w.getLsbD 2 <;> cases w.getLsbD 0 <;> simp [decodeVal]

end Sys2Proof

namespace Sys2Proof.Machine

/-! ### What the ignored bits do not reach -/

theorem exec_heeded (i : Instr) (s : State) : exec i s = exec i.heeded s := by cases i <;> rfl

theorem edge_heeded (i : Instr) (s : State) : edge i s = edge i.heeded s := by cases i <;> rfl

/-- Every command answers a next state (rule R14). -/
theorem exec_next (i : Instr) (s : State) : ∃ t, exec i s = .next t := by
  cases i <;> exact ⟨_, rfl⟩

/-- Settles O3: both meanings factor through the heeded command, and the two words have the same one. -/
theorem reservedBitsAreIgnored : Obligations.ReservedBitsAreIgnored := by
  refine ⟨fun u w s => ⟨decode_unit u w, exec_next _ s⟩, fun u w w' s hstart hbits => ?_⟩
  have key : (decode u w).heeded = (decode u w').heeded := by
    rcases hbits with h | h
    · exact heeded_decode_start u h (hstart ▸ h)
    · cases u with
      | enc | dec => rw [show w = w' from h]
      | val =>
        have hadv : w.getLsbD 0 = w'.getLsbD 0 := h
        simp only [decode, hstart, hadv]
        exact heeded_decodeVal _ _ _ _
      | tbl =>
        simp only [decode, hstart]
        exact heeded_decodeTbl _ _ _ _ _
  exact ⟨by rw [exec_heeded, key, ← exec_heeded], by rw [edge_heeded, key, ← edge_heeded]⟩

/-- Settles O1: the eight words on the four ports are evaluated; what a construction does hangs on its heeded bits. -/
theorem operationMap : Obligations.OperationMap := by
  refine ⟨by decide, by decide, by decide, by decide, fun rd adv s => ?_⟩
  exact ⟨exec_heeded (.encConstruct rd adv) s, exec_heeded (.decConstruct rd adv) s,
    exec_heeded (.valConstruct rd adv) s, exec_heeded (.tblBuild rd adv) s,
    edge_heeded (.encConstruct rd adv) s, edge_heeded (.decConstruct rd adv) s,
    edge_heeded (.valConstruct rd adv) s, edge_heeded (.tblBuild rd adv) s⟩

/-! ### What pops -/

theorem Common.popping_iff (c : Common) (w : Ctl) :
    c.popping w = true ↔ c.live = true ∧ c.fault = .none ∧ advances w = true := by
  simp [Common.popping, advances, and_assoc]

variable (s : State) (n : Nat) (w : Ctl)

/-! ### `src_pop` of an encoder -/

/-- An `ADVANCE` of the encoder that completes takes a byte (the last case of rule R148). -/
def Enc.takes (e : Enc) : Prop := e.pos ≠ 3 ∧ ¬(e.pos = 2 ∧ e.pad = true) ∧ e.src.exhausted = false

theorem Enc.advanced_src_of_takes {e : Enc} (h : e.takes) : e.advanced.src = e.src.pop := by
  obtain ⟨h3, h2, hx⟩ := h
  simp [Enc.advanced, h3, h2, hx]

theorem Enc.advanced_src_of_not_takes {e : Enc} (h : ¬e.takes) : e.advanced.src = e.src := by
  obtain ⟨-, ha⟩ | ⟨-, -, ha⟩ | ⟨-, -, -, ha⟩ | ⟨h3, h2, hx, -⟩ := e.advanced_cases
  · rw [ha]
  · rw [ha]
  · rw [ha]
  · exact absurd ⟨h3, h2, hx⟩ h

theorem State.srcPop_enc_iff :
    s.srcPop .enc n false w = true ↔ (s.enc n).com.popping w = true ∧ (s.enc n).takes := by
  simp [State.srcPop, Enc.takes, and_assoc, imp_iff_not_or]

/-- A strobed operation keeps the encoder's source if its completion does. -/
theorem State.encStrobe_src (k : Enc → State)
    (hk : (s.enc s.port).com.live = true → (s.enc s.port).com.fault = .none →
      ((k (s.enc s.port)).enc s.port).src = (s.enc s.port).src) :
    ((s.encStrobe k).enc s.port).src = (s.enc s.port).src := by
  obtain ⟨-, h⟩ | ⟨hf, -, h⟩ | ⟨hf, hm, h⟩ := s.encStrobe_cases k
  · simp [h]
  · simp [h, s.raise_enc _ _ hf]
  · have hl : (s.enc s.port).com.live = true := by simp_all [Enc.noMore]
    rw [h, hk hl hf]

/-- Where `src_pop` is 1, the edge completes an `ADVANCE` or a `POP`. -/
theorem edge_enc_of_srcPop (h : s.srcPop .enc s.port false w = true) :
    ∃ r, (∀ c, r ≠ .raised c) ∧
      edge (decode .enc w) s = .next ((s.setEnc s.port (s.enc s.port).advanced).withRet r) := by
  obtain ⟨hp, -, -, hx⟩ := (s.srcPop_enc_iff _ w).1 h
  obtain ⟨hl, hf, hw⟩ := (Common.popping_iff _ w).1 hp
  have hm : (s.enc s.port).noMore = false := by simp [Enc.noMore, hl, hx]
  obtain ⟨-, hd | hd⟩ | ⟨hw', -⟩ := decode_enc_cases w
  · exact ⟨.done, nofun, by rw [hd, edge, exec, execEncAdvance, s.encStrobe_ready _ hf hm]⟩
  · exact ⟨.symbol (s.enc s.port).symbol, nofun, by rw [hd, edge, exec, execEncPop, s.encStrobe_ready _ hf hm]⟩
  · simp [hw'] at hw

/-- Where `src_pop` is 0, the edge keeps the encoder's source. -/
theorem edge_enc_src_of_not_srcPop {t : State} (h : s.srcPop .enc s.port false w = false)
    (ht : edge (decode .enc w) s = .next t) : (t.enc s.port).src = (s.enc s.port).src := by
  obtain ⟨hw, hd⟩ | ⟨-, hd | hd | ⟨rd, adv, hd⟩⟩ := decode_enc_cases w
  · have keeps (hl : (s.enc s.port).com.live = true) (hf : (s.enc s.port).com.fault = .none) :
        (s.enc s.port).advanced.src = (s.enc s.port).src := by
      refine Enc.advanced_src_of_not_takes fun htakes => ?_
      rw [(s.srcPop_enc_iff _ w).2 ⟨(Common.popping_iff _ w).2 ⟨hl, hf, hw⟩, htakes⟩] at h
      cases h
    rcases hd with hd | hd <;> rw [hd] at ht <;> cases ht <;>
      exact s.encStrobe_src _ fun hl hf => by simpa using keeps hl hf
  · rw [hd] at ht
    cases ht
    rfl
  · rw [hd] at ht
    cases ht
    exact s.encStrobe_src _ fun _ _ => rfl
  · rw [hd] at ht
    cases ht
    simp only [State.withRet_enc, State.setEnc_enc_same]
    split <;> rfl

/-! ### Source ports of decoders and validators -/

/-- From `s` to `t` a port wired to `w` is popped once if `p`, and a chained encoder advanced, and neither if not. -/
def PortMoves (s t : State) (w w' : Wire) (p : Bool) : Prop :=
  w' = (if p then w.popped else w) ∧ t.encs = (if p then s.wirePop w else s).encs

theorem PortMoves.still {s t : State} {w w' : Wire} (hw : w' = w) (he : t.encs = s.encs) : PortMoves s t w w' false :=
  ⟨hw, he⟩

theorem PortMoves.pop {s t : State} {w w' : Wire} (hw : w' = w.popped) (he : t.encs = (s.wirePop w).encs) :
    PortMoves s t w w' true :=
  ⟨hw, he⟩

theorem State.head_eq_none_iff (c : Common) (x : Wire) : s.head c x = none ↔ s.wireEmpty x = true := by
  simp [State.head]

/-! ### `src_pop` of a decoder -/

theorem State.decHeadData_iff : s.decHeadData n = true ↔ ∃ i, s.decHead n = some (.data i) := by
  unfold State.decHeadData
  split <;> simp_all

theorem State.srcPop_dec_iff :
    s.srcPop .dec n false w = true ↔
      ((s.dec n).needPrime = true ∨ (s.dec n).com.popping w = true) ∧ s.decHeadData n = true := by
  simp [State.srcPop]

theorem State.srcPop_dec_busy (hb : (s.dec n).needPrime = true) : s.srcPop .dec n false w = s.decHeadData n := by
  simp [State.srcPop, hb]

/-- The micro-step pops exactly where it finds a data symbol (rules R110, R180). -/
theorem State.primeEdge_portMoves :
    PortMoves s (s.primeEdge n) (s.dec n).src ((s.primeEdge n).dec n).src (s.decHeadData n) := by
  obtain ⟨i, hi, h⟩ | ⟨hn, h⟩ := s.prime_cases n
  · rw [(s.decHeadData_iff n).2 ⟨i, hi⟩]
    exact .pop (by simp [State.primeEdge, h, State.decTake]) (by simp [State.primeEdge, h, State.decTake])
  · rw [Bool.eq_false_iff.2 fun hd => ((s.decHeadData_iff n).1 hd).elim hn]
    exact .still (by simp [State.primeEdge, h]) (by simp [State.primeEdge, h])

/-- A busy decoder primes at an edge, whatever the word (rules R111, R233). -/
theorem edge_dec_busy (hb : (s.dec s.port).needPrime = true) :
    ∃ r, edge (decode .dec w) s = .next ((s.primeEdge s.port).withRet r) := by
  have hret : s.primeEdge s.port = (s.primeEdge s.port).withRet (s.primeEdge s.port).ret := rfl
  obtain ⟨-, hd | hd⟩ | ⟨-, hd | hd | ⟨rd, adv, hd⟩⟩ := decode_dec_cases w <;> rw [hd]
  · exact ⟨_, by rw [edge, State.decAdvance, s.decStrobe_busy _ _ hb, ← hret]; rfl⟩
  · exact ⟨_, by rw [edge, State.decPop, s.decStrobe_busy _ _ hb]; rfl⟩
  · exact ⟨_, by rw [edge, exec, execDecNop, if_pos hb, ← hret]⟩
  · exact ⟨_, by rw [edge, exec, execDecFront, s.decStrobe_busy _ _ hb]; rfl⟩
  · exact ⟨_, by rw [edge, State.decConstruct, if_pos hb, ← hret]⟩

/-- At the pin level an `ADVANCE` pops once, the prime being owed (rules R110, R178). -/
theorem State.decAdvanced_portMoves (i : Idx) :
    PortMoves s (s.decAdvanced n i true) (s.dec n).src ((s.decAdvanced n i true).dec n).src true := by
  obtain ⟨-, h⟩ | ⟨-, h⟩ := s.decAdvanced_cases n i true <;> rw [h] <;>
    exact .pop (by simp [State.owePrime, State.decTake]) (by simp [State.owePrime, State.decTake])

/-- A strobed operation of a decoder that is not busy keeps its source and the encoders if its completion does. -/
theorem State.decStrobe_portMoves {rd : Bool} {k : Dec → Idx → State} (hb : (s.dec s.port).needPrime = false)
    (hk : ∀ i, (s.dec s.port).com.live = true → (s.dec s.port).com.fault = .none →
      s.decHead s.port = some (.data i) →
      PortMoves s (k (s.dec s.port) i) (s.dec s.port).src ((k (s.dec s.port) i).dec s.port).src false) :
    PortMoves s (s.decStrobe rd k) (s.dec s.port).src ((s.decStrobe rd k).dec s.port).src false := by
  have raised (hf : (s.dec s.port).com.fault = .none) (c : FaultCode) :
      PortMoves s (s.raise .dec s.port c) (s.dec s.port).src ((s.raise .dec s.port c).dec s.port).src false := by
    rw [s.raise_dec _ c hf]
    exact .still (by simp) rfl
  obtain ⟨hb', -⟩ | ⟨-, ⟨-, h⟩ | ⟨hf, ⟨-, h⟩ | ⟨hl, ⟨-, h⟩ | ⟨-, h⟩ | ⟨i, hi, h⟩⟩⟩⟩ := s.decStrobe_cases rd k
  · simp [hb] at hb'
  · rw [h]
    exact .still rfl rfl
  · exact h ▸ raised hf _
  · exact h ▸ raised hf _
  · exact h ▸ raised hf _
  · rw [h]
    exact hk i hl hf hi

/-- Where `src_pop` is 1 on a decoder that is not busy, the edge completes an `ADVANCE` or a `POP`. -/
theorem edge_dec_of_srcPop (hb : (s.dec s.port).needPrime = false) (h : s.srcPop .dec s.port false w = true) :
    ∃ i r, (∀ c, r ≠ .raised c) ∧
      edge (decode .dec w) s = .next ((s.decAdvanced s.port i true).withRet r) := by
  obtain ⟨hp, hd⟩ := (s.srcPop_dec_iff _ w).1 h
  obtain ⟨hl, hf, hw⟩ := (Common.popping_iff _ w).1 (hp.resolve_left (by simp [hb]))
  obtain ⟨i, hi⟩ := (s.decHeadData_iff _).1 hd
  obtain ⟨-, hd | hd⟩ | ⟨hw', -⟩ := decode_dec_cases w
  · exact ⟨i, .done, nofun, by rw [hd, edge, State.decAdvance, s.decStrobe_data _ _ hb hf hl hi]⟩
  · exact ⟨i, .byte ((s.dec s.port).byte i), nofun, by rw [hd, edge, State.decPop, s.decStrobe_data _ _ hb hf hl hi]⟩
  · simp [hw'] at hw

/-- A construction at the pin level, of a decoder that is not busy, consumes nothing (rule R172). -/
theorem State.decConstruct_portMoves (hb : (s.dec s.port).needPrime = false) :
    PortMoves s (s.decConstruct true) (s.dec s.port).src ((s.decConstruct true).dec s.port).src false := by
  cases hok : s.cfg.ok <;>
    exact .still (by simp [State.decConstruct, State.owePrime, Dec.cursorReset, hb, hok])
      (by simp [State.decConstruct, State.owePrime, hb, hok])

/-- Where `src_pop` is 0 on a decoder that is not busy, the edge keeps its source and every encoder. -/
theorem edge_dec_portMoves_of_not_srcPop {t : State} (hb : (s.dec s.port).needPrime = false)
    (h : s.srcPop .dec s.port false w = false) (ht : edge (decode .dec w) s = .next t) :
    PortMoves s t (s.dec s.port).src (t.dec s.port).src false := by
  obtain ⟨hw, hd⟩ | ⟨-, hd | hd | ⟨rd, adv, hd⟩⟩ := decode_dec_cases w
  · have stuck (i : Idx) (hl : (s.dec s.port).com.live = true) (hf : (s.dec s.port).com.fault = .none)
        (hi : s.decHead s.port = some (.data i)) : False := by
      rw [(s.srcPop_dec_iff _ w).2 ⟨.inr ((Common.popping_iff _ w).2 ⟨hl, hf, hw⟩),
        (s.decHeadData_iff _).2 ⟨i, hi⟩⟩] at h
      cases h
    rcases hd with hd | hd <;> rw [hd] at ht <;> cases ht <;>
      exact s.decStrobe_portMoves hb fun i hl hf hi => (stuck i hl hf hi).elim
  · rw [hd, edge, exec, execDecNop, if_neg (by simp [hb])] at ht
    cases ht
    exact .still rfl rfl
  · rw [hd] at ht
    cases ht
    exact s.decStrobe_portMoves hb fun _ _ _ _ => .still rfl rfl
  · rw [hd] at ht
    cases ht
    exact s.decConstruct_portMoves hb

/-- A decoder's edge pops its source exactly if `src_pop` was 1 before it, primes included. -/
theorem edge_dec_portMoves {t : State} (ht : edge (decode .dec w) s = .next t) :
    PortMoves s t (s.dec s.port).src (t.dec s.port).src (s.srcPop .dec s.port false w) := by
  cases hb : (s.dec s.port).needPrime
  · cases h : s.srcPop .dec s.port false w
    · exact edge_dec_portMoves_of_not_srcPop s w hb h ht
    · obtain ⟨i, r, -, he⟩ := edge_dec_of_srcPop s w hb h
      cases he.symm.trans ht
      exact s.decAdvanced_portMoves s.port i
  · obtain ⟨r, he⟩ := edge_dec_busy s w hb
    cases he.symm.trans ht
    rw [s.srcPop_dec_busy _ w hb]
    exact s.primeEdge_portMoves s.port

/-- A decoder pops data symbols only, so never an exhausted source (rules R65, R102). -/
theorem State.wireEmpty_of_srcPop_dec (h : s.srcPop .dec n false w = true) : s.wireEmpty (s.dec n).src = false := by
  obtain ⟨i, hi⟩ := (s.decHeadData_iff n).1 ((s.srcPop_dec_iff n w).1 h).2
  rw [← Bool.not_eq_true, ← s.head_eq_none_iff (s.dec n).com]
  exact fun hn => nomatch hn.symm.trans hi

/-! ### `src_pop` of a validator -/

theorem State.srcPop_val_iff :
    s.srcPop .val n false w = true ↔ (s.val n).com.popping w = true ∧ s.wireEmpty (s.val n).src = false := by
  simp [State.srcPop]

/-- Where `src_pop` is 1, the edge completes a `STEP`. -/
theorem edge_val_of_srcPop (h : s.srcPop .val s.port false w = true) :
    ∃ cls, edge (decode .val w) s = .next
      (((s.wirePop (s.val s.port).src).setVal s.port ((s.val s.port).stepped cls)).withRet .done) := by
  obtain ⟨hp, he⟩ := (s.srcPop_val_iff _ w).1 h
  obtain ⟨hl, hf, hw⟩ := (Common.popping_iff _ w).1 hp
  obtain ⟨-, rd, hd⟩ | ⟨hw', -⟩ := decode_val_cases w
  · rw [hd, edge, exec]
    obtain ⟨hf', -⟩ | ⟨-, ⟨hl' | hn, -⟩ | ⟨-, cls, -, hs⟩⟩ := execValStep_cases s
    · exact absurd hf hf'
    · simp [hl] at hl'
    · simp [s.head_eq_none_iff, he] at hn
    · exact ⟨cls, hs⟩
  · simp [hw'] at hw

/-- Where `src_pop` is 0, the edge keeps the validator's source and every encoder. -/
theorem edge_val_portMoves_of_not_srcPop {t : State} (h : s.srcPop .val s.port false w = false)
    (ht : edge (decode .val w) s = .next t) : PortMoves s t (s.val s.port).src (t.val s.port).src false := by
  obtain ⟨hw, rd, hd⟩ | ⟨-, ⟨rd, hd⟩ | ⟨rd, adv, hd⟩⟩ := decode_val_cases w <;> rw [hd] at ht
  · rw [edge, exec] at ht
    obtain ⟨-, hs⟩ | ⟨hf, ⟨-, hs⟩ | ⟨hl, cls, hh, -⟩⟩ := execValStep_cases s
    · cases hs.symm.trans ht
      exact .still rfl rfl
    · cases hs.symm.trans ht
      rw [s.raise_val _ _ hf]
      exact .still (by simp) rfl
    · have he : s.wireEmpty (s.val s.port).src = false := by
        rw [← Bool.not_eq_true, ← s.head_eq_none_iff (s.val s.port).com, hh]
        nofun
      rw [(s.srcPop_val_iff _ w).2 ⟨(Common.popping_iff _ w).2 ⟨hl, hf, hw⟩, he⟩] at h
      cases h
  · cases ht
    exact .still rfl rfl
  · cases ht
    exact .still (by simp [Val.cursorReset]) rfl

/-- A validator's edge pops its source exactly if `src_pop` was 1 before it. -/
theorem edge_val_portMoves {t : State} (ht : edge (decode .val w) s = .next t) :
    PortMoves s t (s.val s.port).src (t.val s.port).src (s.srcPop .val s.port false w) := by
  cases h : s.srcPop .val s.port false w
  · exact edge_val_portMoves_of_not_srcPop s w h ht
  · obtain ⟨cls, he⟩ := edge_val_of_srcPop s w h
    cases he.symm.trans ht
    exact .pop (by simp [Val.stepped]) rfl

/-! ### `src_pop` of every unit -/

/-- A unit that is not busy pops only while it is live and unfaulted (rule R102). -/
theorem State.live_unfaulted_of_srcPop {u : UnitKind} (hb : s.busy u n = false) (h : s.srcPop u n false w = true) :
    (s.common u n).live = true ∧ (s.common u n).fault = .none := by
  have hp : (s.common u n).popping w = true := by
    cases u with
    | enc => exact ((s.srcPop_enc_iff n w).1 h).1
    | dec => exact ((s.srcPop_dec_iff n w).1 h).1.resolve_left (by simpa [State.busy] using hb)
    | val => exact ((s.srcPop_val_iff n w).1 h).1
    | tbl => simp [State.srcPop] at h
  obtain ⟨hl, hf, -⟩ := (Common.popping_iff _ w).1 hp
  exact ⟨hl, hf⟩

/-- An edge before which `src_pop` was 1 raises no fault of a unit that is not busy (rule R102). -/
theorem edge_ret_of_srcPop {u : UnitKind} {t : State} (hb : s.busy u s.port = false)
    (h : s.srcPop u s.port false w = true) (ht : edge (decode u w) s = .next t) (c : FaultCode) :
    t.ret ≠ .raised c := by
  cases u with
  | enc =>
    obtain ⟨r, hr, he⟩ := edge_enc_of_srcPop s w h
    cases he.symm.trans ht
    exact hr c
  | dec =>
    obtain ⟨i, r, hr, he⟩ := edge_dec_of_srcPop s w hb h
    cases he.symm.trans ht
    exact hr c
  | val =>
    obtain ⟨cls, he⟩ := edge_val_of_srcPop s w h
    cases he.symm.trans ht
    nofun
  | tbl => simp [State.srcPop] at h

/-- An encoder's edge pops its source exactly if `src_pop` was 1 before it. -/
theorem edge_enc_src {t : State} (ht : edge (decode .enc w) s = .next t) :
    (t.enc s.port).src =
      if s.srcPop .enc s.port false w then (s.enc s.port).src.pop else (s.enc s.port).src := by
  cases h : s.srcPop .enc s.port false w
  · exact edge_enc_src_of_not_srcPop s w h ht
  · obtain ⟨r, -, he⟩ := edge_enc_of_srcPop s w h
    cases he.symm.trans ht
    simpa using Enc.advanced_src_of_takes ((s.srcPop_enc_iff _ w).1 h).2

/-- Settles O51: on each unit type the edge moves the source as the pin says, and the pin is 1 only where the coming
operation, or a prime, finds an item to consume. -/
theorem sourcePopPin : Obligations.SourcePopPin := by
  refine ⟨fun s u n w => rfl, fun s u n w hb hdead => ?_, fun s u w t c hb ht hc => ?_,
    fun s t w ht => ⟨edge_enc_src s w ht, fun h => ((s.srcPop_enc_iff _ w).1 h).2.2.2⟩,
    fun s t w ht => ?_, fun s t w ht => ?_⟩
  · refine Bool.eq_false_iff.2 fun h => ?_
    obtain ⟨hl, hf⟩ := s.live_unfaulted_of_srcPop n w hb h
    rcases hdead with hf' | hl'
    · exact hf' hf
    · simp [hl] at hl'
  · exact Bool.eq_false_iff.2 fun h => edge_ret_of_srcPop s w hb h ht c hc
  · obtain ⟨hsrc, hencs⟩ := edge_dec_portMoves s w ht
    exact ⟨hsrc, hencs, s.wireEmpty_of_srcPop_dec _ w⟩
  · obtain ⟨hsrc, hencs⟩ := edge_val_portMoves s w ht
    exact ⟨hsrc, hencs, fun h => ((s.srcPop_val_iff _ w).1 h).2⟩

end Sys2Proof.Machine
end

section
/-! The alphabet table (rules R121 to R131). An accepted configuration keeps `c62`, `c63` and `cpad` apart from each other
and from the 62 fixed symbols, so each case of the reverse map is met by candidates of its own. The counts of rule R129
follow from this: the data candidates are listed by the forward map, without repetition. -/

namespace Sys2Proof.Machine

open Sys2Proof.Claims

/-! ### The configuration check -/

/-- Outside the 62 fixed symbols, on numbers. -/
theorem std62_eq_false_iff (v : Byte) : std62 v = false ↔
    ¬(0x41 ≤ v.toNat ∧ v.toNat ≤ 0x5A) ∧ ¬(0x61 ≤ v.toNat ∧ v.toNat ≤ 0x7A) ∧
      ¬(0x30 ≤ v.toNat ∧ v.toNat ≤ 0x39) := by
  rw [← Bool.not_eq_true, std62_iff, not_or, not_or]

/-- Settles O6: `cfgOk_iff`, with the tests sorted by operand. -/
theorem configurationCheck : Obligations.ConfigurationCheck := by
  intro a b p
  simp only [cfgOk_iff, List.forall_mem_cons, List.not_mem_nil, false_implies, implies_true, and_true,
    ← std62_eq_false_iff, ne_eq, BitVec.toNat_inj]
  tauto

/-! ### The forward map -/

section Forward

variable (c : Common) {i : Idx}

theorem Common.fwd_upper (h : i.toNat ≤ 25) : (c.fwd i).toNat = 0x41 + i.toNat := by
  rw [c.fwd_toNat, if_pos h]

theorem Common.fwd_lower (h : 26 ≤ i.toNat) (h' : i.toNat ≤ 51) : (c.fwd i).toNat = 0x61 + (i.toNat - 26) := by
  rw [c.fwd_toNat, if_neg (by omega), if_pos h']

theorem Common.fwd_digit (h : 52 ≤ i.toNat) (h' : i.toNat ≤ 61) : (c.fwd i).toNat = 0x30 + (i.toNat - 52) := by
  rw [c.fwd_toNat, if_neg (by omega), if_neg (by omega), if_pos h']

@[simp] theorem Common.fwd_62 : c.fwd 62#6 = c.c62 := rfl

@[simp] theorem Common.fwd_63 : c.fwd 63#6 = c.c63 := rfl

end Forward

theorem Tbl.answers_of_live {t : Tbl} (hl : t.com.live = true) (hf : t.com.fault = .none) : t.answers = true := by
  simp [Tbl.answers, hl, hf]

/-- Settles O8: the five ranges of the index, and the pins of a table that answers. -/
theorem forwardMap : Obligations.ForwardMap := by
  refine ⟨fun c i => ⟨c.fwd_upper, c.fwd_lower, c.fwd_digit, fun h => ?_, fun h => ?_, rfl⟩,
    fun s n i hl hf => ?_⟩
  · rw [show i = 62#6 from BitVec.eq_of_toNat_eq h, c.fwd_62]
  · rw [show i = 63#6 from BitVec.eq_of_toNat_eq h, c.fwd_63]
  · simp [State.answer, State.tblFwd, State.tblPadSym, Tbl.answers_of_live hl hf, Common.padSym]

/-! ### The reverse map -/

section Reverse

variable {c : Common} {v : Byte}

theorem Common.rev_high (h : 128 ≤ v.toNat) : c.rev v = .invalid := by
  rw [c.rev_eq, if_pos h]

variable (c) in
@[simp] theorem Common.rev_cpad : c.rev (zext8 c.cpad) = .pad := by
  have := c.cpad.isLt
  rw [c.rev_eq, zext8_toNat, if_neg (by omega), if_pos rfl]

/-- A candidate that is none of the 65 symbols. -/
theorem Common.rev_otherwise (hp : v ≠ zext8 c.cpad) (h62 : v ≠ zext8 c.c62) (h63 : v ≠ zext8 c.c63)
    (hu : ¬(0x41 ≤ v.toNat ∧ v.toNat ≤ 0x5A)) (hl : ¬(0x61 ≤ v.toNat ∧ v.toNat ≤ 0x7A))
    (hd : ¬(0x30 ≤ v.toNat ∧ v.toNat ≤ 0x39)) : c.rev v = .invalid := by
  rw [← BitVec.toNat_ne_iff_ne, zext8_toNat] at hp h62 h63
  rw [c.rev_eq, if_neg hp, if_neg hu, if_neg hl, if_neg hd, if_neg h62, if_neg h63, ite_self]

/-- A data candidate is the symbol of its index (rule R129), whatever the table registers hold. -/
theorem Common.zext8_fwd_of_rev {i : Idx} (h : c.rev v = .data i) : zext8 (c.fwd i) = v := by
  apply BitVec.eq_of_toNat_eq
  rw [zext8_toNat]
  rw [c.rev_eq] at h
  split_ifs at h with _ _ hu hl hd h62 h63 <;> cases h
  · rw [c.fwd_upper] <;> simp only [BitVec.toNat_ofNat] <;> omega
  · rw [c.fwd_lower] <;> simp only [BitVec.toNat_ofNat] <;> omega
  · rw [c.fwd_digit] <;> simp only [BitVec.toNat_ofNat] <;> omega
  · exact h62.symm
  · exact h63.symm

/-- A padding candidate is the padding symbol (rule R129). -/
theorem Common.eq_cpad_of_rev (h : c.rev v = .pad) : v = zext8 c.cpad := by
  apply BitVec.eq_of_toNat_eq
  rw [c.rev_eq] at h
  split_ifs at h with _ hp
  rw [hp, zext8_toNat]

variable (hok : cfgOk (zext8 c.c62) (zext8 c.c63) (zext8 c.cpad) = true)
include hok

/-- No table register of an accepted configuration holds a letter or a digit. -/
theorem Common.unfixed_of_cfgOk {x : Sym} (hx : x = c.c62 ∨ x = c.c63 ∨ x = c.cpad) :
    ¬(0x41 ≤ x.toNat ∧ x.toNat ≤ 0x5A) ∧ ¬(0x61 ≤ x.toNat ∧ x.toNat ≤ 0x7A) ∧
      ¬(0x30 ≤ x.toNat ∧ x.toNat ≤ 0x39) := by
  obtain ⟨-, ⟨h62, h63, hp⟩, -⟩ := (cfgOk_iff _ _ _).1 hok
  rw [← zext8_toNat x, ← std62_eq_false_iff]
  rcases hx with rfl | rfl | rfl
  exacts [h62, h63, hp]

theorem Common.distinct_of_cfgOk :
    c.c62.toNat ≠ c.c63.toNat ∧ c.c62.toNat ≠ c.cpad.toNat ∧ c.c63.toNat ≠ c.cpad.toNat := by
  simpa using ((cfgOk_iff _ _ _).1 hok).2.2

theorem Common.rev_upper {k : Nat} (hk : k ≤ 25) (hv : v.toNat = 0x41 + k) :
    c.rev v = .data (BitVec.ofNat 6 k) := by
  have hp := Common.unfixed_of_cfgOk hok (.inr (.inr rfl))
  rw [c.rev_eq, if_neg (by omega), if_neg (by omega), if_pos (by omega), hv, Nat.add_sub_cancel_left]

theorem Common.rev_lower {k : Nat} (hk : k ≤ 25) (hv : v.toNat = 0x61 + k) :
    c.rev v = .data (BitVec.ofNat 6 (k + 26)) := by
  have hp := Common.unfixed_of_cfgOk hok (.inr (.inr rfl))
  rw [c.rev_eq, if_neg (by omega), if_neg (by omega), if_neg (by omega), if_pos (by omega), hv,
    Nat.add_sub_cancel_left]

theorem Common.rev_digit {k : Nat} (hk : k ≤ 9) (hv : v.toNat = 0x30 + k) :
    c.rev v = .data (BitVec.ofNat 6 (k + 52)) := by
  have hp := Common.unfixed_of_cfgOk hok (.inr (.inr rfl))
  rw [c.rev_eq, if_neg (by omega), if_neg (by omega), if_neg (by omega), if_neg (by omega), if_pos (by omega), hv,
    Nat.add_sub_cancel_left]

theorem Common.rev_c62 : c.rev (zext8 c.c62) = .data 62#6 := by
  have := c.c62.isLt
  obtain ⟨hu, hl, hd⟩ := Common.unfixed_of_cfgOk hok (.inl rfl)
  obtain ⟨-, hp, -⟩ := Common.distinct_of_cfgOk hok
  rw [c.rev_eq, zext8_toNat, if_neg (by omega), if_neg hp, if_neg hu, if_neg hl, if_neg hd, if_pos rfl]

theorem Common.rev_c63 : c.rev (zext8 c.c63) = .data 63#6 := by
  have := c.c63.isLt
  obtain ⟨hu, hl, hd⟩ := Common.unfixed_of_cfgOk hok (.inr (.inl rfl))
  obtain ⟨h62, -, hp⟩ := Common.distinct_of_cfgOk hok
  rw [c.rev_eq, zext8_toNat, if_neg (by omega), if_neg hp, if_neg hu, if_neg hl, if_neg hd, if_neg h62.symm, if_pos rfl]

/-- The reverse map undoes the forward map (rule R129). -/
theorem Common.rev_fwd (i : Idx) : c.rev (zext8 (c.fwd i)) = .data i := by
  have := i.isLt
  have back {k : Nat} (h : k = i.toNat) : SymClass.data (BitVec.ofNat 6 k) = .data i := by
    rw [h, BitVec.ofNat_toNat, BitVec.setWidth_eq]
  obtain h | h | h | h | h : i.toNat ≤ 25 ∨ (26 ≤ i.toNat ∧ i.toNat ≤ 51) ∨ (52 ≤ i.toNat ∧ i.toNat ≤ 61) ∨
      i.toNat = 62 ∨ i.toNat = 63 := by omega
  · rw [Common.rev_upper hok h (by rw [zext8_toNat, c.fwd_upper h]), back rfl]
  · rw [Common.rev_lower hok (k := i.toNat - 26) (by omega) (by rw [zext8_toNat, c.fwd_lower h.1 h.2]),
      back (by omega)]
  · rw [Common.rev_digit hok (k := i.toNat - 52) (by omega) (by rw [zext8_toNat, c.fwd_digit h.1 h.2]),
      back (by omega)]
  · obtain rfl : i = 62#6 := BitVec.eq_of_toNat_eq h
    exact Common.rev_c62 hok
  · obtain rfl : i = 63#6 := BitVec.eq_of_toNat_eq h
    exact Common.rev_c63 hok

end Reverse

/-- The three pins of a table that answers its queries (rule R128). -/
theorem State.answer_tblRev {s : State} {n : Nat} (hl : (s.tbl n).com.live = true) (hf : (s.tbl n).com.fault = .none)
    {v : Byte} {cls : SymClass} (h : (s.tbl n).com.rev v = cls) :
    s.answer (.tblRev n v) = .reverse (revPins cls).1 (revPins cls).2.1 (revPins cls).2.2 := by
  simp [State.answer, State.tblRev, Tbl.answers_of_live hl hf, h]

/-- Settles O9: a lemma for each case of the reverse map, and the pins of a table that answers. -/
theorem reverseMap : Obligations.ReverseMap :=
  ⟨fun c _ hok => ⟨Common.rev_high, fun hv => hv ▸ c.rev_cpad, fun _ => Common.rev_upper hok,
      fun _ => Common.rev_lower hok, fun _ => Common.rev_digit hok, fun hv => hv ▸ Common.rev_c62 hok,
      fun hv => hv ▸ Common.rev_c63 hok, Common.rev_otherwise⟩,
    fun _ _ _ hl hf => ⟨fun _ => State.answer_tblRev hl hf, State.answer_tblRev hl hf, State.answer_tblRev hl hf⟩⟩

/-- Settles O11: the six candidates are numbers, and so are the three registers. -/
theorem urlSafeAlphabet : Obligations.UrlSafeAlphabet := by
  refine ⟨by decide, fun c h62 h63 hp => ?_⟩
  simp [c.rev_eq, h62, h63, hp]

/-! ### The counts of rule R129 -/

/-- The bytes that satisfy `P` are as many as a list of them without repetition. -/
theorem countP_bytes {P : Byte → Bool} {l : List Byte} (hl : l.Nodup) (h : ∀ v, P v = true ↔ v ∈ l) :
    (List.range 256).countP (fun k => P (BitVec.ofNat 8 k)) = l.length := by
  have nodup : ((List.range 256).map (BitVec.ofNat 8)).Nodup := by
    refine List.nodup_range.map_on fun x hx y hy e => ?_
    have := congrArg BitVec.toNat e
    simp only [List.mem_range, BitVec.toNat_ofNat] at hx hy this
    omega
  have all (v : Byte) : v ∈ (List.range 256).map (BitVec.ofNat 8) :=
    List.mem_map.2 ⟨v.toNat, List.mem_range.2 v.isLt, by simp⟩
  have perm : (((List.range 256).map (BitVec.ofNat 8)).filter P).Perm l :=
    (List.perm_ext_iff_of_nodup (nodup.filter P) hl).2 fun v => by simp only [List.mem_filter, all, true_and, h]
  rw [← perm.length_eq, ← List.countP_eq_length_filter, List.countP_map]
  rfl

theorem isData_iff {c : Common} {v : Byte} : isData c v = true ↔ ∃ i, c.rev v = .data i := by
  cases h : c.rev v <;> simp [isData, h]

/-- Every candidate is of one of the three classes. -/
theorem countP_classes (c : Common) (l : List Nat) :
    l.countP (fun k => isData c (BitVec.ofNat 8 k)) + l.countP (fun k => c.rev (BitVec.ofNat 8 k) = .pad) +
      l.countP (fun k => c.rev (BitVec.ofNat 8 k) = .invalid) = l.length := by
  induction l with
  | nil => rfl
  | cons k l ih =>
    simp only [List.countP_cons, List.length_cons, isData_iff, decide_eq_true_eq]
    cases c.rev (BitVec.ofNat 8 k) <;> simp <;> omega

/-- The upper half of the bytes is invalid. -/
theorem countP_invalid_range_256 (c : Common) :
    (List.range 256).countP (fun k => c.rev (BitVec.ofNat 8 k) = .invalid) =
      (List.range 128).countP (fun k => c.rev (BitVec.ofNat 8 k) = .invalid) + 128 := by
  have upper : ((List.range 128).map (128 + ·)).countP (fun k => c.rev (BitVec.ofNat 8 k) = .invalid) = 128 := by
    rw [List.countP_eq_length.2, List.length_map, List.length_range]
    simp only [List.forall_mem_map, List.mem_range, decide_eq_true_eq]
    exact fun k hk => Common.rev_high (by rw [BitVec.toNat_ofNat]; omega)
  rw [show 256 = 128 + 128 from rfl, List.range_add, List.countP_append, upper]

theorem countP_pad (c : Common) : (List.range 256).countP (fun k => c.rev (BitVec.ofNat 8 k) = .pad) = 1 :=
  countP_bytes (P := fun v => c.rev v = .pad) (List.nodup_singleton (zext8 c.cpad)) fun v => by
    rw [decide_eq_true_eq, List.mem_singleton]
    exact ⟨Common.eq_cpad_of_rev, fun h => h ▸ c.rev_cpad⟩

/-- The data candidates are the symbols of the 64 indices. -/
theorem countP_isData {c : Common} (hok : cfgOk (zext8 c.c62) (zext8 c.c63) (zext8 c.cpad) = true) :
    (List.range 256).countP (fun k => isData c (BitVec.ofNat 8 k)) = 64 := by
  have inj (i j : Idx) (h : zext8 (c.fwd i) = zext8 (c.fwd j)) : i = j := by
    simpa [Common.rev_fwd hok] using congrArg c.rev h
  have nodup : ((List.finRange 64).map fun k => zext8 (c.fwd (BitVec.ofFin k))).Nodup :=
    (List.nodup_finRange 64).map fun k l h => BitVec.ofFin.inj (inj _ _ h)
  rw [countP_bytes (P := isData c) nodup fun v => ?_, List.length_map, List.length_finRange]
  rw [isData_iff, List.mem_map]
  constructor
  · rintro ⟨i, h⟩
    exact ⟨i.toFin, List.mem_finRange _, Common.zext8_fwd_of_rev h⟩
  · rintro ⟨k, -, rfl⟩
    exact ⟨_, Common.rev_fwd hok _⟩

/-- Settles O10: the invalid candidates are the rest of the 256, and 128 of them have bit 7 set. -/
theorem tableMapsAreInverse : Obligations.TableMapsAreInverse := by
  intro c hok
  have hdata := countP_isData hok
  have hpad := countP_pad c
  have hall := countP_classes c (List.range 256)
  have hhalf := countP_invalid_range_256 c
  rw [List.length_range] at hall
  exact ⟨Common.rev_fwd hok, c.rev_cpad, fun _ _ => Common.zext8_fwd_of_rev, fun _ => Common.eq_cpad_of_rev, hdata, hpad,
    by omega, by omega⟩

/-! ### Construction -/

section Construction

variable (s : State)

/-- The operands a construction reads from the pins are the selected ones. -/
theorem selected_eq : selected s = (s.cfg.sel62, s.cfg.sel63, s.cfg.selPad) := by
  cases h : s.cfg.std <;> simp [selected, CfgPins.sel62, CfgPins.sel63, CfgPins.selPad, h]

theorem cfg_ok_eq_accepted : s.cfg.ok = accepted s := by
  simp only [accepted, selected_eq, CfgPins.ok]

variable {s} (c : Common) (tick : Nat) (u : UnitKind) (n : Nat)

/-- `BUILD` that passes the check, on any common registers (rule R121). -/
theorem Common.build_accepted (h : accepted s = true) : c.build s.cfg tick u n = built s := by
  rw [c.build_ok _ _ _ _ ((cfg_ok_eq_accepted s).trans h)]
  simp only [built, selected_eq, BitVec.setWidth_eq_extractLsb' (show 7 ≤ 8 by decide)]

/-- `BUILD` that fails it, on any common registers (rule R123). -/
theorem Common.build_not_accepted (h : accepted s = false) : Unbuilt (c.build s.cfg tick u n) := by
  rw [c.build_fail _ _ _ _ ((cfg_ok_eq_accepted s).trans h)]
  exact ⟨rfl, rfl⟩

theorem outcome_accepted (h : accepted s = true) : s.cfg.outcome = .done :=
  CfgPins.outcome_ok ((cfg_ok_eq_accepted s).trans h)

theorem outcome_not_accepted (h : accepted s = false) : s.cfg.outcome = .raised .config :=
  CfgPins.outcome_fail ((cfg_ok_eq_accepted s).trans h)

/-- The standard alphabet passes the check (rule R124). -/
theorem standard_accepted (h : s.cfg.std = true) :
    accepted s = true ∧ built s = ⟨true, .none, 0x2B#7, 0x2F#7, 0x3D#7⟩ := by
  have hsel : selected s = (0x2B#8, 0x2F#8, 0x3D#8) := if_pos h
  simp only [accepted, built, hsel]
  decide

/-- A decoder that is not busy builds its table, whether or not it then primes. -/
theorem State.decConstruct_common (pinLevel : Bool) (hb : (s.dec s.port).needPrime = false) :
    ((s.decConstruct pinLevel).dec s.port).com = (s.dec s.port).com.build s.cfg s.tick .dec s.port ∧
      (s.decConstruct pinLevel).ret = s.cfg.outcome := by
  have prime_com (t : State) : ((t.prime s.port).dec s.port).com = (t.dec s.port).com := by
    simp [t.prime_other]
  cases hok : s.cfg.ok <;> cases pinLevel <;>
    simp [State.decConstruct, State.owePrime, hb, hok, prime_com]

/-- `BUILD` is the first part of every construction that is heard: it says what the common registers hold after it. -/
theorem exec_construction {i : Instr} {t : State} (hi : constructs i = true) (hu : ¬Unheard s i)
    (h : exec i s = .next t) :
    t.common i.unit s.port = (s.common i.unit s.port).build s.cfg s.tick i.unit s.port ∧ t.ret = s.cfg.outcome := by
  cases i <;> cases hi <;> cases h
  case encConstruct => cases s.cfg.ok <;> simp [Instr.unit]
  case decConstruct => exact s.decConstruct_common false (by simpa [Unheard, Instr.unit] using hu)
  case valConstruct => simp [Instr.unit]
  case tblBuild => simp [Instr.unit]

end Construction

/-- Settles O12: `BUILD` of a table is its common registers built, and `exec_construction` says it of the others. -/
theorem tableBuild : Obligations.TableBuild := by
  refine fun s rd adv => ⟨fun h => ?_, fun h => ⟨_, Common.build_not_accepted (s.tbl s.port).com s.tick .tbl s.port h, ?_⟩,
    standard_accepted, fun i t hi hu ht => ?_⟩
  · rw [exec, execTblBuild, Common.build_accepted _ _ _ _ h, outcome_accepted h]
    rfl
  · rw [exec, execTblBuild, outcome_not_accepted h]
    rfl
  · obtain ⟨hcom, hret⟩ := exec_construction hi hu ht
    rw [hcom, hret]
    exact ⟨Common.build_accepted _ _ _ _, fun h => ⟨Common.build_not_accepted _ _ _ _ h, outcome_not_accepted h⟩⟩

end Sys2Proof.Machine
end

section
/-! The encoder's rows (rule R150) on the encoder alone. `Enc.Presents` says of an encoder with `EMPTY = 0` which symbol it
shows and what it is after an advance; the machine's rows and the runs of `DRAIN` cite its lemmas. -/

namespace Sys2Proof.Machine

open Sys2Proof.Claims

/-! ### The indices as shifts and masks (rule R79) -/

theorem encIdx0_eq_shift (cur : Byte) : encIdx0 cur = (cur >>> 2).setWidth 6 := by
  ext i
  simp [encIdx0]

theorem encIdx3_eq_mask (prev : Byte) : encIdx3 prev = (prev &&& 0x3F#8).setWidth 6 := by
  apply BitVec.eq_of_toNat_eq
  rw [encIdx3_toNat, BitVec.toNat_setWidth, BitVec.toNat_and, show (0x3F#8).toNat = 2 ^ 6 - 1 from rfl,
    Nat.and_two_pow_sub_one_eq_mod]
  simp

theorem encIdx1_eq_shift (prev cur : Byte) :
    encIdx1 prev cur = (((prev &&& 0x03#8) <<< 4) ||| (cur >>> 4)).setWidth 6 := by
  apply BitVec.eq_of_getLsbD_eq
  intro i hi
  rw [show (encIdx1 prev cur).getLsbD i = _ from BitVec.getLsbD_append]
  interval_cases i <;> simp

theorem encIdx2_eq_shift (prev cur : Byte) :
    encIdx2 prev cur = (((prev &&& 0x0F#8) <<< 2) ||| (cur >>> 6)).setWidth 6 := by
  apply BitVec.eq_of_getLsbD_eq
  intro i hi
  rw [show (encIdx2 prev cur).getLsbD i = _ from BitVec.getLsbD_append]
  interval_cases i <;> simp

/-- At `pos` 1 an absent byte is read as 0 (rule R141). -/
theorem encIdx1_absent (prev : Byte) : encIdx1 prev 0#8 = ((prev &&& 0x03#8) <<< 4).setWidth 6 := by
  simp [encIdx1_eq_shift]

/-- At `pos` 2 an absent byte is read as 0 (rule R141). -/
theorem encIdx2_absent (prev : Byte) : encIdx2 prev 0#8 = ((prev &&& 0x0F#8) <<< 2).setWidth 6 := by
  simp [encIdx2_eq_shift]

/-! ### The rows -/

theorem Enc.noMore_iff (e : Enc) :
    e.noMore = true ↔ e.com.live = false ∨ e.pos = 0 ∧ e.src.exhausted = true := by
  simp [Enc.noMore]

/-- A live encoder with `EMPTY = 0` that shows `v` and that an advance takes to `e'`. -/
def Enc.Presents (e : Enc) (v : Sym) (e' : Enc) : Prop := e.noMore = false ∧ e.symbol = v ∧ e.advanced = e'

section Rows

variable {e : Enc} (hl : e.com.live = true)
include hl

theorem Enc.presents_pos0 (hp : e.pos = 0) (hx : e.src.exhausted = false) :
    e.Presents (e.com.fwd (encIdx0 e.src.front)) { e with pos := 1, prev := e.src.front, src := e.src.pop } := by
  simp [Enc.Presents, Enc.noMore, Enc.symbol, Enc.cur, Enc.advanced, hl, hp, hx]

theorem Enc.presents_pos1 (hp : e.pos = 1) (hx : e.src.exhausted = false) :
    e.Presents (e.com.fwd (encIdx1 e.prev e.src.front))
      { e with pos := 2, prev := e.src.front, src := e.src.pop } := by
  simp [Enc.Presents, Enc.noMore, Enc.symbol, Enc.cur, Enc.advanced, hl, hp, hx]

theorem Enc.presents_pos1_ended (hp : e.pos = 1) (hx : e.src.exhausted = true) :
    e.Presents (e.com.fwd (encIdx1 e.prev 0#8)) { e with pos := 2, pad := true } := by
  simp [Enc.Presents, Enc.noMore, Enc.symbol, Enc.cur, Enc.advanced, hl, hp, hx]

theorem Enc.presents_pos2 (hp : e.pos = 2) (hd : e.pad = false) (hx : e.src.exhausted = false) :
    e.Presents (e.com.fwd (encIdx2 e.prev e.src.front))
      { e with pos := 3, prev := e.src.front, src := e.src.pop } := by
  simp [Enc.Presents, Enc.noMore, Enc.symbol, Enc.cur, Enc.advanced, hl, hp, hd, hx]

theorem Enc.presents_pos2_ended (hp : e.pos = 2) (hd : e.pad = false) (hx : e.src.exhausted = true) :
    e.Presents (e.com.fwd (encIdx2 e.prev 0#8)) { e with pos := 3, pad := true } := by
  simp [Enc.Presents, Enc.noMore, Enc.symbol, Enc.cur, Enc.advanced, hl, hp, hd, hx]

theorem Enc.presents_pos2_pad (hp : e.pos = 2) (hd : e.pad = true) :
    e.Presents e.com.padSym { e with pos := 3 } := by
  simp [Enc.Presents, Enc.noMore, Enc.symbol, Enc.advanced, hl, hp, hd]

theorem Enc.presents_pos3 (hp : e.pos = 3) (hd : e.pad = false) :
    e.Presents (e.com.fwd (encIdx3 e.prev)) { e with pos := 0, pad := false } := by
  simp [Enc.Presents, Enc.noMore, Enc.symbol, Enc.advanced, hl, hp, hd]

theorem Enc.presents_pos3_pad (hp : e.pos = 3) (hd : e.pad = true) :
    e.Presents e.com.padSym { e with pos := 0, pad := false } := by
  simp [Enc.Presents, Enc.noMore, Enc.symbol, Enc.advanced, hl, hp, hd]

end Rows

/-! ### The strobed commands -/

section Strobed

variable {s : State}

theorem exec_encStrobed {i : Instr} (hi : encStrobed i) : ∃ k, exec i s = .next (s.encStrobe k) := by
  obtain rfl | rfl | rfl := hi <;> exact ⟨_, rfl⟩

theorem exec_encStrobed_faulted {i : Instr} (hi : encStrobed i) (hf : (s.enc s.port).com.fault ≠ .none) :
    exec i s = .next { s with ret := .ignored } := by
  obtain ⟨k, hk⟩ := exec_encStrobed (s := s) hi
  rw [hk, s.encStrobe_faulted _ hf]
  rfl

/-- Where there is nothing to present a strobed command raises `PREMATURE` (rule R227). -/
theorem exec_encStrobed_noMore {i : Instr} (hi : encStrobed i) (hf : (s.enc s.port).com.fault = .none)
    (hm : (s.enc s.port).noMore = true) : exec i s = .next (encFaulted s .premature) := by
  obtain ⟨k, hk⟩ := exec_encStrobed (s := s) hi
  rw [hk, s.encStrobe_exhausted _ hf hm, s.raise_enc _ _ hf]
  rfl

theorem State.encEmpty_eq_noMore {n : Nat} (hf : (s.enc n).com.fault = .none) : s.encEmpty n = (s.enc n).noMore := by
  simp [State.encEmpty, hf]

/-- A row of the encoder is a row of the machine. -/
theorem encRow_of_presents {v : Sym} {e' : Enc} (hf : (s.enc s.port).com.fault = .none)
    (h : (s.enc s.port).Presents v e') : EncRow s v e' := by
  obtain ⟨hm, rfl, rfl⟩ := h
  refine ⟨?_, ?_, ?_, ?_, ?_⟩
  · rw [State.answer, State.encEmpty_eq_noMore hf, hm]
  · simp [State.answer, State.encFront, hf, hm]
  · rw [exec, execEncFront, s.encStrobe_ready _ hf hm]
    rfl
  · rw [exec, execEncAdvance, s.encStrobe_ready _ hf hm]
    rfl
  · rw [exec, execEncPop, s.encStrobe_ready _ hf hm]
    rfl

end Strobed

/-- Settles O21: the source never runs dry, so of the four cases of `ADVANCE` only the wrap and the pop are met. -/
theorem endlessSourceNeverPads : Obligations.EndlessSourceNeverPads := by
  intro s k hl hf ht hd
  have hx : (s.enc s.port).src.exhausted = false := by simp [Source.exhausted, ht]
  have hm : (s.enc s.port).noMore = false := by simp [Enc.noMore, hl, hx]
  refine ⟨(State.encEmpty_eq_noMore hf).trans hm, _,
    by rw [exec, execEncAdvance, s.encStrobe_ready _ hf hm], ?_⟩
  simp only [State.withRet_enc, State.setEnc_enc_same, Enc.advanced_com, true_and]
  obtain ⟨h3, ha⟩ | ⟨-, hd', -⟩ | ⟨-, -, hx', -⟩ | ⟨h3, -, -, ha⟩ := (s.enc s.port).advanced_cases
  · simp [ha, h3, ht]
  · simp [hd] at hd'
  · simp [hx] at hx'
  · simp [ha, h3, ht, hd]

/-- Settles O18: the common registers are built or left unbuilt, and the cursor starts afresh. -/
theorem encoderConstruction : Obligations.EncoderConstruction := by
  refine fun s rd adv => ⟨fun h => ?_, fun h =>
    ⟨_, Config.freeEncPrev s.tick s.port,
      Common.build_not_accepted (s.enc s.port).com s.tick .enc s.port h, ?_⟩⟩
  · rw [exec, execEncConstruct, Common.build_accepted _ _ _ _ h, outcome_accepted h,
      if_pos ((cfg_ok_eq_accepted s).trans h)]
    rfl
  · rw [exec, execEncConstruct, outcome_not_accepted h,
      if_neg (by simp [cfg_ok_eq_accepted, h])]
    rfl

/-- Settles O44: the words are evaluated, and each of the four commands records its completion. -/
theorem nopChangesNothing : Obligations.NopChangesNothing := by
  refine ⟨⟨rfl, rfl, by decide, by decide⟩, ?_, fun _ => rfl, fun s hb => ?_, fun _ _ => rfl, fun _ _ _ => rfl⟩
  · rintro s i (rfl | rfl | ⟨rd, rfl⟩ | ⟨rd, adv, rfl⟩) <;> rfl
  · rw [exec, execDecNop, if_neg (by simp [hb])]
    rfl

end Sys2Proof.Machine
end

section
/-! What an operation or a clock edge can do to an encoder that it does not construct: raise `PREMATURE` on it, or advance it,
driven by its own command or by the wire of a chain, any number of times. A property that these two keep is kept by every
operation and by every edge. -/

namespace Sys2Proof.Machine

open Sys2Proof.Claims

/-- `P` outlasts a `PREMATURE` raised on the encoder and an `ADVANCE` of it that completes. -/
structure Enc.Stable (P : Enc → Prop) : Prop where
  premature : ∀ e, e.com.fault = .none → e.noMore = true → P e → P { e with com := e.com.raise .premature }
  advanced : ∀ e, e.com.fault = .none → e.noMore = false → P e → P e.advanced

section Stable

variable {P : Enc → Prop} (hP : Enc.Stable P) {s : State} {n : Nat} (h : P (s.enc n))
include hP h

/-! ### Along the wire of a chain -/

theorem State.wireAdvance_stable (k : Nat) : P ((s.wireAdvance k).enc n) := by
  by_cases hk : n = k
  · subst hk
    obtain ⟨-, e⟩ | ⟨hf, hm, e⟩ | ⟨hf, hm, e⟩ := s.wireAdvance_cases n <;> rw [e]
    · exact h
    · simpa using hP.premature _ hf hm h
    · simpa using hP.advanced _ hf hm h
  · obtain ⟨-, e⟩ | ⟨-, -, e⟩ | ⟨-, -, e⟩ := s.wireAdvance_cases k <;>
      simpa [e, State.setEnc_enc_other _ _ hk] using h

theorem State.wirePop_stable (w : Wire) : P ((s.wirePop w).enc n) := by
  cases w with
  | stream src => exact h
  | encoder k => exact State.wireAdvance_stable hP h k

theorem State.prime_stable (m : Nat) : P ((s.prime m).enc n) := by
  obtain ⟨i, -, e⟩ | ⟨-, e⟩ := s.prime_cases m <;> rw [e]
  · exact State.wirePop_stable hP h _
  · exact h

theorem State.primeEdge_stable (m : Nat) : P ((s.primeEdge m).enc n) :=
  State.prime_stable hP h m

theorem State.settle_stable (driven : Option Nat) : P ((s.settle driven).enc n) :=
  s.settle_keeps driven (P := fun t => P (t.enc n)) (fun _ m _ _ ht => State.primeEdge_stable hP ht m) h

theorem State.owePrime_stable (m : Nat) (pinLevel : Bool) : P ((s.owePrime m pinLevel).enc n) := by
  cases pinLevel
  · exact State.prime_stable (s := s.nextEdge) hP h m
  · exact h

theorem State.decAdvanced_stable (m : Nat) (i : Idx) (pinLevel : Bool) :
    P ((s.decAdvanced m i pinLevel).enc n) := by
  have taken : P ((s.decTake m i).enc n) := State.wirePop_stable hP h _
  obtain ⟨-, e⟩ | ⟨-, e⟩ := s.decAdvanced_cases m i pinLevel <;> rw [e]
  · exact taken
  · exact State.owePrime_stable hP (by exact taken) m pinLevel

/-! ### By a command -/

/-- A strobed operation of an encoder, if its completion keeps the property. -/
theorem State.encStrobe_stable {k : Enc → State}
    (hk : (s.enc s.port).com.fault = .none → (s.enc s.port).noMore = false → P ((k (s.enc s.port)).enc n)) :
    P ((s.encStrobe k).enc n) := by
  obtain ⟨-, e⟩ | ⟨hf, hm, e⟩ | ⟨hf, hm, e⟩ := s.encStrobe_cases k <;> rw [e]
  · exact h
  · by_cases hn : n = s.port
    · subst hn
      simpa [State.raise] using hP.premature _ hf hm h
    · simpa [State.raise, State.setEnc_enc_other _ _ hn] using h
  · exact hk hf hm

/-- The completion of an `ADVANCE` or a `POP`. -/
theorem State.setEnc_advanced_stable (hf : (s.enc s.port).com.fault = .none)
    (hm : (s.enc s.port).noMore = false) : P ((s.setEnc s.port (s.enc s.port).advanced).enc n) := by
  by_cases hn : n = s.port
  · subst hn
    simpa using hP.advanced _ hf hm h
  · simpa [State.setEnc_enc_other _ _ hn] using h

/-- A strobed operation of a decoder, if its completion keeps the property. -/
theorem State.decStrobe_stable {rd : Bool} {k : Dec → Idx → State}
    (hk : ∀ i, P ((k (s.dec s.port) i).enc n)) : P ((s.decStrobe rd k).enc n) := by
  obtain ⟨-, e⟩ | ⟨-, ⟨-, e⟩ | ⟨-, ⟨-, e⟩ | ⟨-, ⟨-, e⟩ | ⟨-, e⟩ | ⟨i, -, e⟩⟩⟩⟩ := s.decStrobe_cases rd k <;> rw [e]
  · cases rd <;> exact State.primeEdge_stable hP h _
  · exact h
  · exact h
  · exact h
  · exact h
  · exact hk i

theorem State.decConstruct_stable (pinLevel : Bool) : P ((s.decConstruct pinLevel).enc n) := by
  unfold State.decConstruct
  dsimp only
  split
  · exact State.primeEdge_stable hP h _
  · split
    · exact State.owePrime_stable (s := s.setDec s.port _) hP h s.port pinLevel
    · exact h

theorem execValStep_stable {t : State} (ht : execValStep s = .next t) : P (t.enc n) := by
  obtain ⟨-, e⟩ | ⟨-, ⟨-, e⟩ | ⟨-, cls, -, e⟩⟩ := execValStep_cases s <;> cases e.symm.trans ht
  · exact h
  · exact h
  · exact State.wirePop_stable hP h _

/-- An operation keeps the property on every encoder but one that it constructs. -/
theorem exec_stable {i : Instr} {t : State} (ht : exec i s = .next t)
    (hc : ¬(constructs i = true ∧ Drives s i .enc n)) : P (t.enc n) := by
  cases i with
  | valStep rd => exact execValStep_stable hP h ht
  | encConstruct rd adv =>
    have hn : n ≠ s.port := fun e => hc ⟨rfl, rfl, e.symm⟩
    cases ht
    simpa [State.setEnc_enc_other _ _ hn] using h
  | decNop =>
    cases ht
    split
    · exact State.primeEdge_stable hP h _
    · exact h
  | encAdvance | encPop =>
    cases ht
    exact State.encStrobe_stable hP h fun hf hm => State.setEnc_advanced_stable hP h hf hm
  | encFront =>
    cases ht
    exact State.encStrobe_stable hP h fun _ _ => h
  | decAdvance | decPop =>
    cases ht
    exact State.decStrobe_stable hP h fun i => State.decAdvanced_stable hP h _ i false
  | decFront =>
    cases ht
    exact State.decStrobe_stable hP h fun _ => h
  | decConstruct rd adv =>
    cases ht
    exact State.decConstruct_stable hP h false
  | encNop | valNop rd | valConstruct rd adv | tblNop rd adv | tblBuild rd adv =>
    cases ht
    exact h

/-- And so does a clock edge. -/
theorem edge_stable {i : Instr} {t : State} (ht : edge i s = .next t)
    (hc : ¬(constructs i = true ∧ Drives s i .enc n)) : P (t.enc n) := by
  cases i with
  | decAdvance | decPop =>
    cases ht
    exact State.decStrobe_stable hP h fun i => State.decAdvanced_stable hP h _ i true
  | decConstruct rd adv =>
    cases ht
    exact State.decConstruct_stable hP h true
  | _ => exact exec_stable hP h (by exact ht) hc

end Stable

/-! ### By a whole step -/

/-- A command that is pending constructs, after the rest of the edge, no encoder that the event does not construct. -/
theorem not_constructs_of_not_constructing {s : State} {n : Nat} {c : Command} {rest : List Input}
    (hs : s.inbox = .command c :: rest ∨ s.inbox = .edge false c :: rest) (hn : ¬Constructing s .enc n) :
    ¬(constructs (decode c.unit c.ctl) = true ∧
      Drives ((s.present c rest).settle c.drivenDec) (decode c.unit c.ctl) .enc n) := by
  rintro ⟨hc, hu, hp⟩
  obtain ⟨-, -, -, hport, -⟩ := (s.present c rest).settle_other c.drivenDec
  exact hn ⟨c, rest, hs, (decode_unit _ _).symm.trans hu, hport.symm.trans hp, hc⟩

/-- A step keeps a property that every reset encoder has, from after the event's wiring, on every encoder but one that it
constructs. -/
theorem cycle_stable {P : Enc → Prop} (hP : Enc.Stable P) {s t : State} {n : Nat}
    (hreset : ∀ r : State, P (r.hardReset.enc n)) (hw : P (s.wiring.enc n)) (hn : ¬Constructing s .enc n)
    (ht : s.cycle = .next t) : P (t.enc n) := by
  rcases hs : s.inbox with _ | ⟨x, rest⟩
  · simp only [State.wiring, State.cycle, hs] at hw ht
    cases ht
    exact State.settle_stable hP (by exact hw) none
  simp only [State.wiring, hs] at hw
  cases x with
  | command c =>
    simp only [State.cycle, hs] at ht
    exact exec_stable hP (State.settle_stable hP (by exact hw) _) ht
      (not_constructs_of_not_constructing (.inl hs) hn)
  | edge rst c =>
    cases rst <;> simp only [State.cycle, hs] at ht
    · exact edge_stable hP (State.settle_stable hP (by exact hw) _) ht
        (not_constructs_of_not_constructing (.inr hs) hn)
    · cases ht
      exact hreset _
  | observe | attachEnc | attachDec | attachVal =>
    simp only [State.cycle, hs] at ht
    cases ht
    exact State.settle_stable hP (by exact hw) none

/-! ### The rows of the transition table (rule R150) -/

/-- No advance leads into the unreachable states: one that sets `pad` leaves `pos` 2 or 3. -/
theorem Enc.stable_pad : Enc.Stable fun e => e.pad = true → e.pos = 2 ∨ e.pos = 3 := by
  refine ⟨fun _ _ _ h => h, fun e _ hm h => ?_⟩
  obtain ⟨-, ha⟩ | ⟨-, -, ha⟩ | ⟨h3, -, hx, ha⟩ | ⟨h3, h2, -, ha⟩ := e.advanced_cases <;> rw [ha]
  · simp
  · simp
  · have h0 : e.pos ≠ 0 := fun h0 => by simp [e.noMore_iff.2 (.inr ⟨h0, hx⟩)] at hm
    intro _
    change e.pos + 1 = 2 ∨ e.pos + 1 = 3
    omega
  · exact fun hd => absurd ⟨(h hd).resolve_right h3, hd⟩ h2

theorem constructs_of_encStrobed {i : Instr} (hi : encStrobed i) : constructs i = false := by
  obtain rfl | rfl | rfl := hi <;> rfl

/-- Settles O17: outside the rows the strobe says what happens; each row is the encoder's. -/
theorem encoderTransitionTable : Obligations.EncoderTransitionTable := by
  refine ⟨fun s i hi hf => exec_encStrobed_faulted hi hf, fun s i hi hf hl => ?_, fun s i t hi ht h => ?_,
    fun s hl hf => ?_⟩
  · have hm : (s.enc s.port).noMore = true := (Enc.noMore_iff _).2 (.inl hl)
    exact ⟨(State.encEmpty_eq_noMore hf).trans hm, exec_encStrobed_noMore hi hf hm⟩
  · exact exec_stable Enc.stable_pad h ht (by simp [constructs_of_encStrobed hi])
  · simp only [← encIdx0_eq_shift, ← encIdx1_eq_shift, ← encIdx2_eq_shift, ← encIdx3_eq_mask, ← encIdx1_absent,
      ← encIdx2_absent]
    refine ⟨fun hp hx => encRow_of_presents hf (Enc.presents_pos0 hl hp hx), fun hp hx => ?_,
      fun hp hx => encRow_of_presents hf (Enc.presents_pos1 hl hp hx),
      fun hp hx => encRow_of_presents hf (Enc.presents_pos1_ended hl hp hx),
      fun hp hd hx => encRow_of_presents hf (Enc.presents_pos2 hl hp hd hx),
      fun hp hd hx => encRow_of_presents hf (Enc.presents_pos2_ended hl hp hd hx),
      fun hp hd => encRow_of_presents hf (Enc.presents_pos2_pad hl hp hd),
      fun hp hd => encRow_of_presents hf (Enc.presents_pos3 hl hp hd),
      fun hp hd => encRow_of_presents hf (Enc.presents_pos3_pad hl hp hd)⟩
    have hm : (s.enc s.port).noMore = true := (Enc.noMore_iff _).2 (.inr ⟨hp, hx⟩)
    exact ⟨(State.encEmpty_eq_noMore hf).trans hm, fun i hi => exec_encStrobed_noMore hi hf hm⟩

/-! ### An encoder that has ended (rule R144) -/

/-- An encoder that has ended stays where it is: no advance of it completes. -/
theorem Enc.stable_ended (e₀ : Enc) : Enc.Stable fun e =>
    e.noMore = true ∧ e.com.live = e₀.com.live ∧ e.pos = e₀.pos ∧ e.src = e₀.src :=
  ⟨fun _ _ _ h => h, fun e _ hm h => by simp [h.1] at hm⟩

theorem Enc.stable_noMore : Enc.Stable fun e => e.noMore = true :=
  ⟨fun _ _ _ h => h, fun e _ hm h => by simp [h] at hm⟩

/-- After `rst` no encoder is live (rule R260). -/
theorem State.hardReset_enc_live (s : State) (n : Nat) : (s.hardReset.enc n).com.live = false := by
  obtain h | ⟨h, -⟩ := unitGet_unitMap (dflt := Enc.reset) (Enc.hardReset s.tick) 0 s.encs n
  · exact congrArg (fun e : Enc => e.com.live) h
  · exact congrArg (fun e : Enc => e.com.live) h

/-- The event's wiring writes an encoder's source and nothing else of it. -/
theorem State.wiring_enc (s : State) (n : Nat) :
    s.wiring.enc n = { s.enc n with src := (s.wiring.enc n).src } := by
  unfold State.wiring
  split
  · rfl
  · next x _ _ =>
    cases x with
    | attachEnc m src =>
      by_cases hn : n = m
      · subst hn
        simp [State.rewired]
      · simp [State.rewired, State.setEnc_enc_other _ _ hn]
    | command | edge | observe | attachDec | attachVal => rfl

/-- Wiring leaves an encoder at its end where the sources conform: one exhausted stays so (rule R62 (a)). -/
theorem State.Conforming.noMore_wiring {s : State} (hs : s.Conforming) {n : Nat} (h : (s.enc n).noMore = true) :
    (s.wiring.enc n).noMore = true := by
  rw [s.wiring_enc, Enc.noMore_iff]
  cases hl : (s.enc n).com.live
  · exact .inl rfl
  · obtain hl' | ⟨hp, hx⟩ := (Enc.noMore_iff _).1 h
    · simp [hl] at hl'
    · have hx' := hs.permanent .enc n s.wiring.tick hl (by simp [State.srcShows, hx])
      exact .inr ⟨hp, by simpa [State.srcShows] using hx'⟩

/-- Settles O19: an ended encoder is one with `noMore`, which advances and faults keep, and wiring of conforming sources. -/
theorem encoderEmpty : Obligations.EncoderEmpty := by
  refine ⟨fun s n hf => ?_, fun i s t n ht hc h => ?_, fun s t n hs ht hn h => ?_⟩
  · rw [State.answer, State.encEmpty_eq_noMore hf]
    exact ⟨fun hl => by simp [Enc.noMore, hl], fun hl => by simp [Enc.noMore, hl]⟩
  · exact (exec_stable (Enc.stable_ended (s.enc n)) ⟨(Enc.noMore_iff _).2 h, rfl, rfl, rfl⟩ ht hc).2
  · rw [← Enc.noMore_iff] at h ⊢
    obtain ⟨-, hstep⟩ | ⟨-, hstep⟩ := step_cases s <;> rw [hstep] at ht
    · cases ht
    · exact cycle_stable Enc.stable_noMore (fun r => (Enc.noMore_iff _).2 (.inl (r.hardReset_enc_live n)))
        (hs.noMore_wiring h) hn ht

end Sys2Proof.Machine
end

section
/-! Runs of `DRAIN` (rules R155, R156). `encodedSymbols` is the sequence of rule R156 as a function of the bytes, a group of
three at a time. A freshly started encoder emits it, group by group, and stops; `DRAIN` returns what an encoder emits. -/

namespace Sys2Proof.Machine

open Sys2Proof.Claims

/-! ### The symbols of a byte sequence -/

/-- The symbols of the bytes: four a group of three, the last group padded. -/
def encodedSymbols (c : Common) : List Byte → List Sym
  | [] => []
  | [b0] => [c.fwd (encIdx0 b0), c.fwd (encIdx1 b0 0#8), c.padSym, c.padSym]
  | [b0, b1] => [c.fwd (encIdx0 b0), c.fwd (encIdx1 b0 b1), c.fwd (encIdx2 b1 0#8), c.padSym]
  | b0 :: b1 :: b2 :: l =>
    [c.fwd (encIdx0 b0), c.fwd (encIdx1 b0 b1), c.fwd (encIdx2 b1 b2), c.fwd (encIdx3 b2)] ++ encodedSymbols c l

variable (c : Common)

theorem encodedSymbols_length (l : List Byte) : (encodedSymbols c l).length = (l.length + 2) / 3 * 4 := by
  induction l using encodedSymbols.induct with
  | case1 | case2 | case3 => simp [encodedSymbols]
  | case4 b0 b1 b2 l ih =>
    simp only [encodedSymbols, List.length_append, List.length_cons, List.length_nil, ih]
    omega

/-- Whole groups are encoded apart from what follows them. -/
theorem encodedSymbols_append {p : List Byte} (hp : p.length % 3 = 0) (l : List Byte) :
    encodedSymbols c (p ++ l) = encodedSymbols c p ++ encodedSymbols c l := by
  induction p using encodedSymbols.induct with
  | case1 => rfl
  | case2 | case3 => simp at hp
  | case4 b0 b1 b2 p ih =>
    have hp' : p.length % 3 = 0 := by simpa [Nat.add_assoc] using hp
    simp [encodedSymbols, ih hp']

/-- Over whole groups every symbol is computed (rule R156). -/
theorem mem_encodedSymbols {p : List Byte} (hp : p.length % 3 = 0) :
    ∀ v ∈ encodedSymbols c p, ∃ i, v = c.fwd i := by
  induction p using encodedSymbols.induct with
  | case1 => simp [encodedSymbols]
  | case2 | case3 => simp at hp
  | case4 b0 b1 b2 p ih =>
    simp only [encodedSymbols, List.forall_mem_append, List.forall_mem_cons]
    exact ⟨⟨⟨_, rfl⟩, ⟨_, rfl⟩, ⟨_, rfl⟩, ⟨_, rfl⟩, by simp⟩, ih (by simpa [Nat.add_assoc] using hp)⟩

/-! ### A finite source read item by item -/

/-- The source is finite, and its items from the head on are `l`. -/
def Source.Holds (src : Source) (l : List Byte) : Prop := src.tail = .ends ∧ src.items.drop src.rp = l

theorem Source.holds_of (l : List Byte) : (Source.of l).Holds l := ⟨rfl, rfl⟩

variable {src : Source} {b : Byte} {l : List Byte}

theorem Source.Holds.exhausted (h : src.Holds []) : src.exhausted = true := by
  simpa [Source.exhausted, h.1] using h.2

/-- An item at the head is shown, and popped. -/
theorem Source.Holds.head (h : src.Holds (b :: l)) :
    src.exhausted = false ∧ src.front = b ∧ src.pop.Holds l := by
  obtain ⟨ht, hi⟩ := h
  have hlt : src.rp < src.items.length := by
    by_contra hge
    rw [List.drop_eq_nil_of_le (by omega)] at hi
    cases hi
  rw [List.drop_eq_getElem_cons hlt] at hi
  obtain ⟨hb, hl⟩ := List.cons.inj hi
  exact ⟨by simp [Source.exhausted, ht, hlt], by simp [Source.front, hlt, hb], ht, hl⟩

/-! ### What an encoder emits -/

/-- From `e` the symbols `vs` are shown one after the other, and `e'` is reached. -/
inductive Enc.Emits : Enc → List Sym → Enc → Prop
  | nil (e : Enc) : Emits e [] e
  | cons {e m e' : Enc} {v : Sym} {vs : List Sym} : e.Presents v m → Emits m vs e' → Emits e (v :: vs) e'

theorem Enc.Emits.append {e m e' : Enc} {vs ws : List Sym} (h : e.Emits vs m) (h' : m.Emits ws e') :
    e.Emits (vs ++ ws) e' := by
  induction h with
  | nil => exact h'
  | cons hv _ ih => exact .cons hv (ih h')

/-- An encoder at a group boundary, with table `c` and the bytes `l` before it. -/
structure Enc.Starts (e : Enc) (c : Common) (l : List Byte) : Prop where
  com : e.com = c
  pos : e.pos = 0
  pad : e.pad = false
  src : e.src.Holds l

theorem Enc.Starts.noMore {e : Enc} {c : Common} (h : e.Starts c []) : e.noMore = true :=
  e.noMore_iff.2 (.inr ⟨h.pos, h.src.exhausted⟩)

section Groups

variable {c : Common} (hl : c.live = true) {e : Enc} {b0 b1 b2 : Byte}
include hl

/-- A whole group. -/
theorem Enc.Starts.emits_three (h : e.Starts c (b0 :: b1 :: b2 :: l)) :
    ∃ e', e.Emits [c.fwd (encIdx0 b0), c.fwd (encIdx1 b0 b1), c.fwd (encIdx2 b1 b2), c.fwd (encIdx3 b2)] e' ∧
      e'.Starts c l := by
  obtain ⟨rfl, hp, hd, hs⟩ := h
  obtain ⟨hx0, rfl, hs1⟩ := hs.head
  obtain ⟨hx1, rfl, hs2⟩ := hs1.head
  obtain ⟨hx2, rfl, hs3⟩ := hs2.head
  exact ⟨_, .cons (Enc.presents_pos0 hl hp hx0) (.cons (Enc.presents_pos1 hl rfl hx1)
    (.cons (Enc.presents_pos2 hl rfl hd hx2) (.cons (Enc.presents_pos3 hl rfl hd) (.nil _)))), rfl, rfl, rfl, hs3⟩

/-- A last group of two bytes: the third symbol takes an absent byte, and one padding symbol follows. -/
theorem Enc.Starts.emits_two (h : e.Starts c [b0, b1]) :
    ∃ e', e.Emits [c.fwd (encIdx0 b0), c.fwd (encIdx1 b0 b1), c.fwd (encIdx2 b1 0#8), c.padSym] e' ∧
      e'.Starts c [] := by
  obtain ⟨rfl, hp, hd, hs⟩ := h
  obtain ⟨hx0, rfl, hs1⟩ := hs.head
  obtain ⟨hx1, rfl, hs2⟩ := hs1.head
  exact ⟨_, .cons (Enc.presents_pos0 hl hp hx0) (.cons (Enc.presents_pos1 hl rfl hx1)
    (.cons (Enc.presents_pos2_ended hl rfl hd hs2.exhausted) (.cons (Enc.presents_pos3_pad hl rfl rfl) (.nil _)))),
    rfl, rfl, rfl, hs2⟩

/-- A last group of one byte: the second symbol takes an absent byte, and two padding symbols follow. -/
theorem Enc.Starts.emits_one (h : e.Starts c [b0]) :
    ∃ e', e.Emits [c.fwd (encIdx0 b0), c.fwd (encIdx1 b0 0#8), c.padSym, c.padSym] e' ∧ e'.Starts c [] := by
  obtain ⟨rfl, hp, hd, hs⟩ := h
  obtain ⟨hx0, rfl, hs1⟩ := hs.head
  exact ⟨_, .cons (Enc.presents_pos0 hl hp hx0) (.cons (Enc.presents_pos1_ended hl rfl hs1.exhausted)
    (.cons (Enc.presents_pos2_pad hl rfl rfl) (.cons (Enc.presents_pos3_pad hl rfl rfl) (.nil _)))),
    rfl, rfl, rfl, hs1⟩

/-- Group by group, the encoder emits the symbols of its bytes and has then no more. -/
theorem Enc.Starts.emits (h : e.Starts c l) : ∃ e', e.Emits (encodedSymbols c l) e' ∧ e'.Starts c [] := by
  induction l using encodedSymbols.induct generalizing e with
  | case1 => exact ⟨e, .nil e, h⟩
  | case2 b0 => exact h.emits_one hl
  | case3 b0 b1 => exact h.emits_two hl
  | case4 b0 b1 b2 l ih =>
    obtain ⟨m, hm, hstart⟩ := h.emits_three hl
    obtain ⟨e', he', hend⟩ := ih hstart
    exact ⟨e', hm.append he', hend⟩

end Groups

/-! ### `DRAIN` -/

theorem Enc.Presents.com_eq {e e' : Enc} {v : Sym} (h : e.Presents v e') : e'.com = e.com := by
  rw [← h.2.2, Enc.advanced_com]

variable {s : State} {n : Nat}

theorem State.issue_eq {i : Instr} {t : State} (h : exec i { s with port := n, tick := s.tick + 1 } = .next t) :
    s.issue n i = t := by
  rw [State.issue, h]

theorem State.issue_encPop {v : Sym} {e' : Enc} (hf : (s.enc n).com.fault = .none)
    (h : (s.enc n).Presents v e') : (s.issue n .encPop).ret = .symbol v ∧ (s.issue n .encPop).enc n = e' := by
  obtain ⟨-, -, -, -, hpop⟩ := encRow_of_presents (s := { s with port := n, tick := s.tick + 1 }) hf h
  rw [State.issue_eq hpop]
  exact ⟨rfl, State.setEnc_enc_same _ _ _⟩

/-- `DRAIN` with enough rounds returns what the encoder emits, and stops where it has no more. -/
theorem encDrain_of_emits {e e' : Enc} {vs : List Sym} (h : e.Emits vs e') (hm : e'.noMore = true)
    (he : s.enc n = e) (hf : e.com.fault = .none) (k : Nat) :
    (State.encDrain n (vs.length + k) s).1 = vs ∧ (State.encDrain n (vs.length + k) s).2.enc n = e' := by
  induction h generalizing s with
  | nil e =>
    subst he
    cases k with
    | zero => exact ⟨rfl, rfl⟩
    | succ k => simp [State.encDrain, State.encEmpty_eq_noMore hf, hm]
  | @cons e m e' v vs hv _ ih =>
    subst he
    obtain ⟨hret, henc⟩ := State.issue_encPop hf hv
    obtain ⟨ih1, ih2⟩ := ih hm henc (hv.com_eq ▸ hf)
    have hempty : s.encEmpty n = false := (State.encEmpty_eq_noMore hf).trans hv.1
    rw [List.length_cons, Nat.add_right_comm, State.encDrain, if_pos ⟨hf, hempty⟩, hret]
    exact ⟨congrArg (v :: ·) ih1, ih2⟩

/-- An accepted construction starts the encoder afresh on the source it has (rule R142). -/
theorem State.issue_encConstruct (rd adv : Bool) (h : accepted s = true) :
    (s.issue n (.encConstruct rd adv)).enc n = ⟨built s, 0, 0#8, false, (s.enc n).src⟩ := by
  rw [State.issue_eq ((encoderConstruction { s with port := n, tick := s.tick + 1 } rd adv).1 h)]
  exact State.setEnc_enc_same _ _ _

theorem State.encOver_starts (b : List Byte) (h : accepted s = true) :
    ((s.encOver n b).enc n).Starts (built s) b := by
  rw [State.encOver, State.issue_encConstruct (s := s.setEnc n _) false false h, State.setEnc_enc_same]
  exact ⟨rfl, rfl, rfl, Source.holds_of b⟩

/-- A drained run over the bytes `b`: the symbols returned, and the encoder left. -/
theorem encDrain_encOver (b : List Byte) (h : accepted s = true) :
    s.encodeBytes n b = encodedSymbols (built s) b ∧
      ((State.encDrain n (4 * b.length + 4) (s.encOver n b)).2.enc n).Drained := by
  have hstart := State.encOver_starts (n := n) b h
  obtain ⟨e', hemits, hend⟩ := hstart.emits rfl
  have hlen := encodedSymbols_length (built s) b
  have hfuel : 4 * b.length + 4 =
      (encodedSymbols (built s) b).length + (4 * b.length + 4 - (encodedSymbols (built s) b).length) := by omega
  obtain ⟨hsym, henc⟩ := encDrain_of_emits hemits hend.noMore rfl (by rw [hstart.com]; rfl)
    (4 * b.length + 4 - (encodedSymbols (built s) b).length)
  rw [State.encodeBytes, hfuel, hsym, henc]
  exact ⟨rfl, by rw [hend.com]; rfl, by rw [hend.com]; rfl, hend.noMore⟩

/-- Settles O23: the length of the symbols emitted, group by group. -/
theorem encodedLength : Obligations.EncodedLength := by
  intro s n b h
  obtain ⟨hsym, hdrained⟩ := encDrain_encOver (n := n) b h
  exact ⟨by rw [hsym, encodedSymbols_length], hdrained⟩

/-! ### The padding symbol is no computed one -/

theorem zext8_setWidth {v : Byte} (h : v.toNat < 128) : zext8 (v.setWidth 7) = v := by
  apply BitVec.eq_of_toNat_eq
  rw [zext8_toNat, BitVec.toNat_setWidth]
  omega

/-- The table of an accepted construction passes the check again (rule R30). -/
theorem cfgOk_built (h : accepted s = true) :
    cfgOk (zext8 (built s).c62) (zext8 (built s).c63) (zext8 (built s).cpad) = true := by
  obtain ⟨⟨h62, h63, hp⟩, -⟩ := (cfgOk_iff _ _ _).1 h
  simp only [built, zext8_setWidth h62, zext8_setWidth h63, zext8_setWidth hp]
  exact h

theorem fwd_ne_padSym {c : Common} (hok : cfgOk (zext8 c.c62) (zext8 c.c63) (zext8 c.cpad) = true) (i : Idx) :
    c.fwd i ≠ c.padSym := by
  intro h
  have := Common.rev_fwd hok i
  rw [h, Common.padSym, c.rev_cpad] at this
  cases this

/-- Settles O24: the symbols of whole groups, then those of the last group. -/
theorem encodedTail : Obligations.EncodedTail := by
  intro s n p b0 b1 h hp
  have hsym (b : List Byte) : s.encodeBytes n b = encodedSymbols (built s) b := (encDrain_encOver b h).1
  simp only [hsym, encodedSymbols_append _ hp, ← encIdx0_eq_shift, ← encIdx1_eq_shift, ← encIdx1_absent, ← encIdx2_absent]
  exact ⟨fwd_ne_padSym (cfgOk_built h), mem_encodedSymbols _ hp, rfl, rfl, rfl⟩

end Sys2Proof.Machine
end

section
/-! The decoder's operations (rules R172, R180 to R182): `PRIME`, the construction at both levels, and the rows of the
transition table. What an `ADVANCE` leaves is said by `decConsumed`, one symbol moved into `prev`. -/

namespace Sys2Proof.Machine

open Sys2Proof.Claims

/-! ### The bytes as shifts (rule R176) -/

theorem decByte0_eq_shift (prev cur : Idx) :
    decByte0 prev cur = (prev.setWidth 8 <<< 2) ||| (cur.setWidth 8 >>> 4) := by
  apply BitVec.eq_of_getLsbD_eq
  intro i hi
  rw [show (decByte0 prev cur).getLsbD i = _ from BitVec.getLsbD_append]
  interval_cases i <;> simp

theorem decByte1_eq_shift (prev cur : Idx) :
    decByte1 prev cur = (prev.setWidth 8 <<< 4) ||| (cur.setWidth 8 >>> 2) := by
  apply BitVec.eq_of_getLsbD_eq
  intro i hi
  rw [show (decByte1 prev cur).getLsbD i = _ from BitVec.getLsbD_append]
  interval_cases i <;> simp

theorem decByte2_eq_shift (prev cur : Idx) :
    decByte2 prev cur = (prev.setWidth 8 <<< 6) ||| cur.setWidth 8 := by
  apply BitVec.eq_of_getLsbD_eq
  intro i hi
  rw [show (decByte2 prev cur).getLsbD i = _ from BitVec.getLsbD_append]
  interval_cases i <;> simp

/-! ### Moving a symbol -/

variable {s : State} {n : Nat} {c : Idx}

theorem State.decTake_eq_decConsumed : s.decTake n c = decConsumed s n c (s.dec n).pos := rfl

/-- Settles O25: `PRIME` takes a data symbol, and leaves all else alone. -/
theorem primeConsumesOnlyData : Obligations.PrimeConsumesOnlyData := by
  refine fun s n => ⟨fun d h => s.prime_data n h, fun h => s.prime_else n fun i hi => ?_⟩
  rcases h with h | h | h <;> cases h.symm.trans hi

/-- Inside a group an `ADVANCE` consumes one symbol (rule R178). -/
theorem State.decAdvanced_inside (h : (s.dec n).pos ≠ 2) (pinLevel : Bool) :
    s.decAdvanced n c pinLevel = decConsumed s n c ((s.dec n).pos + 1) := by
  rw [State.decAdvanced, if_neg h]
  rfl

/-- On the wrap it consumes one symbol and then primes, on the next edge (rules R110, R178). -/
theorem State.decAdvanced_wrap (h : (s.dec n).pos = 2) :
    s.decAdvanced n c false = (decConsumed s n c 0).nextEdge.prime n := by
  rw [State.decAdvanced, if_pos h, h]
  rfl

@[simp] theorem decConsumed_dec (p : Fin 3) : (decConsumed s n c p).dec n =
    { s.dec n with prev := c, pos := p, src := (s.dec n).src.popped } := by
  simp [decConsumed]

theorem nextEdge_decConsumed (p : Fin 3) :
    (decConsumed s n c p).nextEdge = { decConsumed s n c p with tick := s.tick + 1 } := by
  simp [State.nextEdge, decConsumed]

/-! ### The strobed commands -/

theorem exec_decStrobed {i : Instr} (hi : decStrobed i) : ∃ rd k, exec i s = .next (s.decStrobe rd k) := by
  obtain rfl | rfl | rfl := hi <;> exact ⟨_, _, rfl⟩

section Idle

variable (hb : (s.dec s.port).needPrime = false)
include hb

theorem exec_decStrobed_faulted {i : Instr} (hi : decStrobed i) (hf : (s.dec s.port).com.fault ≠ .none) :
    exec i s = .next { s with ret := .ignored } := by
  obtain ⟨rd, k, hk⟩ := exec_decStrobed (s := s) hi
  rw [hk, s.decStrobe_faulted _ _ hb hf]
  rfl

variable (hf : (s.dec s.port).com.fault = .none)
include hf

theorem exec_decStrobed_notLive {i : Instr} (hi : decStrobed i) (hl : (s.dec s.port).com.live = false) :
    exec i s = .next (decFaulted s .premature) := by
  obtain ⟨rd, k, hk⟩ := exec_decStrobed (s := s) hi
  rw [hk, s.decStrobe_notLive _ _ hb hf hl, s.raise_dec _ _ hf]
  rfl

theorem exec_decStrobed_ended {i : Instr} (hi : decStrobed i)
    (h : s.decHead s.port = none ∨ s.decHead s.port = some .pad) :
    exec i s = .next (decFaulted s .premature) := by
  obtain ⟨rd, k, hk⟩ := exec_decStrobed (s := s) hi
  rw [hk, s.decStrobe_ended _ _ hb hf h, s.raise_dec _ _ hf]
  rfl

variable (hl : (s.dec s.port).com.live = true)
include hl

theorem exec_decStrobed_invalid {i : Instr} (hi : decStrobed i) (h : s.decHead s.port = some .invalid) :
    exec i s = .next (decFaulted s .malformed) := by
  obtain ⟨rd, k, hk⟩ := exec_decStrobed (s := s) hi
  rw [hk, s.decStrobe_invalid _ _ hb hf hl h, s.raise_dec _ _ hf]
  rfl

/-- With a data symbol at the head the byte of the position shows, and an advance consumes the symbol. -/
theorem decRow_of_data (h : s.decHead s.port = some (.data c)) :
    DecRow s ((s.dec s.port).byte c) (s.decAdvanced s.port c false) := by
  refine ⟨?_, ?_, ?_, ?_, ?_⟩
  · simp [State.answer, State.decEmpty, hb, hf, hl, h]
  · simp [State.answer, State.decFront, hb, hf, hl, h]
  · rw [exec, execDecFront, s.decStrobe_data _ _ hb hf hl h]
    rfl
  · rw [exec, execDecAdvance, State.decAdvance, s.decStrobe_data _ _ hb hf hl h]
    rfl
  · rw [exec, execDecPop, State.decPop, s.decStrobe_data _ _ hb hf hl h]
    rfl

theorem decRow_pos0 (h : s.decHead s.port = some (.data c)) (hp : (s.dec s.port).pos = 0) :
    DecRow s (decByte0 (s.dec s.port).prev c) (decConsumed s s.port c 1) := by
  simpa [Dec.byte, State.decAdvanced_inside, hp] using decRow_of_data hb hf hl h

theorem decRow_pos1 (h : s.decHead s.port = some (.data c)) (hp : (s.dec s.port).pos = 1) :
    DecRow s (decByte1 (s.dec s.port).prev c) (decConsumed s s.port c 2) := by
  simpa [Dec.byte, State.decAdvanced_inside, hp] using decRow_of_data hb hf hl h

theorem decRow_pos2 (h : s.decHead s.port = some (.data c)) (hp : (s.dec s.port).pos = 2) :
    DecRow s (decByte2 (s.dec s.port).prev c) ((decConsumed s s.port c 0).nextEdge.prime s.port) := by
  simpa [Dec.byte, State.decAdvanced_wrap, hp] using decRow_of_data hb hf hl h

end Idle

/-- Decoder `n` is not live, or sees no symbol, or sees padding. -/
def State.DecStopped (n : Nat) (s : State) : Prop :=
  (s.dec n).com.live = false ∨ s.decHead n = none ∨ s.decHead n = some .pad

/-- `EMPTY` of an unfaulted decoder that is not busy (rule R173). -/
theorem State.decEmpty_iff (hb : (s.dec n).needPrime = false) (hf : (s.dec n).com.fault = .none) :
    s.decEmpty n = true ↔ s.DecStopped n := by
  cases hl : (s.dec n).com.live
  · simp [State.decEmpty, State.DecStopped, hb, hf, hl]
  · rcases h : s.decHead n with _ | _ | _ | _ <;> simp [State.decEmpty, State.DecStopped, hb, hf, hl, h]

/-- Settles O26: outside the rows the strobe says what happens; in a row the byte of the position shows, and the advance
is one symbol consumed, with a prime after it on the wrap. -/
theorem decoderTransitionTable : Obligations.DecoderTransitionTable := by
  refine ⟨fun s i hi hb hf => exec_decStrobed_faulted hb hi hf, fun s i hi hb hf hl => ?_, fun s hl hf hb => ?_⟩
  · exact ⟨(State.decEmpty_iff hb hf).2 (.inl hl), exec_decStrobed_notLive hb hf hi hl⟩
  · simp only [← decByte0_eq_shift, ← decByte1_eq_shift, ← decByte2_eq_shift, ← nextEdge_decConsumed]
    refine ⟨fun h => ⟨(State.decEmpty_iff hb hf).2 (.inr h), fun i hi => exec_decStrobed_ended hb hf hi h⟩,
      fun h => ⟨?_, fun i hi => exec_decStrobed_invalid hb hf hl hi h⟩,
      fun c h => ⟨decRow_pos0 hb hf hl h, decRow_pos1 hb hf hl h, fun hp => ⟨fun e he => ?_, fun he => ?_⟩⟩⟩
    · simp [← Bool.not_eq_true, State.decEmpty_iff hb hf, State.DecStopped, hl, h]
    · have row := decRow_pos2 hb hf hl h hp
      rwa [State.prime_data _ _ he, State.decTake_eq_decConsumed, State.nextEdge_dec, decConsumed_dec] at row
    · have row := decRow_pos2 hb hf hl h hp
      rwa [State.prime_else _ _ he] at row

/-! ### Construction -/

section Construction

variable (hb : (s.dec s.port).needPrime = false)
include hb

/-- A construction that passes the check, and its prime, performed or owed (rules R110, R172). -/
theorem State.decConstruct_accepted (h : accepted s = true) (pinLevel : Bool) :
    s.decConstruct pinLevel =
      ((s.setDec s.port ⟨built s, 0, 0#6, false, (s.dec s.port).src⟩).owePrime s.port pinLevel).withRet .done := by
  simp [State.decConstruct, hb, cfg_ok_eq_accepted, h, outcome_accepted h, Common.build_accepted _ _ _ _ h]

/-- A construction that fails it does not prime (rules R123, R172). -/
theorem State.decConstruct_not_accepted (h : accepted s = false) (pinLevel : Bool) :
    s.decConstruct pinLevel =
      (s.setDec s.port ⟨(s.dec s.port).com.build s.cfg s.tick .dec s.port, 0, Config.freeDecPrev s.tick s.port, false,
        (s.dec s.port).src⟩).withRet (.raised .config) := by
  simp [State.decConstruct, hb, cfg_ok_eq_accepted, h, outcome_not_accepted h, Dec.cursorReset]

end Construction

/-- Settles O27: an accepted construction ends with its prime, which the first of the two edges leaves owed. -/
theorem decoderConstruction : Obligations.DecoderConstruction := by
  refine fun s rd adv hb => ⟨fun h => ?_, fun h => ?_⟩
  · refine ⟨?_, ?_, fun t ht => ?_⟩
    · rw [exec, execDecConstruct, State.decConstruct_accepted hb h]
      rfl
    · rw [edge, State.decConstruct_accepted hb h, State.owePrime, if_pos rfl, State.setDec_setDec, State.setDec_dec_same]
      rfl
    · rw [edge, State.decConstruct_accepted hb h] at ht
      cases ht
      simp [State.answer, State.busy, State.owePrime]
  · exact ⟨_, _, Common.build_not_accepted (s.dec s.port).com s.tick .dec s.port h,
      by rw [exec, execDecConstruct, State.decConstruct_not_accepted hb h]; rfl⟩

end Sys2Proof.Machine
end

section
/-! Runs of `DRAIN` on a decoder (rules R186 to R188). `decodedBytes` is the byte sequence of the indices of the data
symbols, a group of four at a time. What a decoder sees at its source port, whatever is behind it, is a predicate with the
laws of `State.Port`; a constructed decoder yields the bytes of the indices before it and ends drained. -/

namespace Sys2Proof.Machine

open Sys2Proof.Claims

/-! ### The bytes of a sequence of indices -/

/-- The bytes of the indices: three a group of four, a last group of two or three yielding one or two. -/
def decodedBytes : List Idx → List Byte
  | [] => []
  | [_] => []
  | [i0, i1] => [decByte0 i0 i1]
  | [i0, i1, i2] => [decByte0 i0 i1, decByte1 i1 i2]
  | i0 :: i1 :: i2 :: i3 :: l => [decByte0 i0 i1, decByte1 i1 i2, decByte2 i2 i3] ++ decodedBytes l

/-- Rule R186. -/
theorem decodedBytes_length (l : List Idx) :
    (decodedBytes l).length = 3 * (l.length / 4) + (l.length % 4 - 1) := by
  induction l using decodedBytes.induct with
  | case1 | case2 | case3 | case4 => simp [decodedBytes]
  | case5 i0 i1 i2 i3 l ih =>
    simp only [decodedBytes, List.length_append, List.length_cons, List.length_nil, ih]
    omega

/-! ### What a decoder sees at its source port -/

/-- `P l s` says that in state `s` decoder `n` has before it data symbols of the indices `l` and then the end of its source
or padding: the laws such a predicate obeys, whatever the port is wired to. -/
structure State.Port (n : Nat) (P : List Idx → State → Prop) : Prop where
  head : ∀ {i l s}, P (i :: l) s → s.decHead n = some (.data i)
  pop : ∀ {i l s}, P (i :: l) s → P l (s.decTake n i)
  ended : ∀ {s}, P [] s → s.decHead n = none ∨ s.decHead n = some .pad
  congr : ∀ {l s t}, P l s → t.encs = s.encs → (t.dec n).com = (s.dec n).com → (t.dec n).src = (s.dec n).src →
    P l t

/-- The decoder is live, unfaulted and not busy. -/
structure Dec.Ready (d : Dec) : Prop where
  live : d.com.live = true
  fault : d.com.fault = .none
  idle : d.needPrime = false

/-- Decoder `n` is at position `p` with the index `i` in `prev` and the indices `l` before it. -/
structure State.Reads (P : List Idx → State → Prop) (n : Nat) (s : State) (p : Fin 3) (i : Idx) (l : List Idx) :
    Prop where
  ready : (s.dec n).Ready
  pos : (s.dec n).pos = p
  prev : (s.dec n).prev = i
  ahead : P l s

/-- Decoder `n` has nothing more before it. -/
structure State.Ends (P : List Idx → State → Prop) (n : Nat) (s : State) : Prop where
  ready : (s.dec n).Ready
  ahead : P [] s

/-- Decoder `n` is at a group boundary, its prime done, of the indices `l`: the first is in `prev`, if there is one. -/
def State.Primed (P : List Idx → State → Prop) (n : Nat) (s : State) : List Idx → Prop
  | [] => s.Ends P n
  | i :: l => s.Reads P n 0 i l

variable {P : List Idx → State → Prop} {s t : State} {n : Nat} {i j : Idx} {l : List Idx} {p : Fin 3}

theorem State.Reads.ends (h : s.Reads P n p i []) : s.Ends P n := ⟨h.ready, h.ahead⟩

theorem State.Primed.withRet (hP : State.Port n P) (h : s.Primed P n l) (r : Ret) : (s.withRet r).Primed P n l := by
  cases l with
  | nil => exact ⟨h.ready, hP.congr h.ahead rfl rfl rfl⟩
  | cons i l => exact ⟨h.ready, h.pos, h.prev, hP.congr h.ahead rfl rfl rfl⟩

theorem Dec.Ready.decConsumed (h : (s.dec n).Ready) : ((decConsumed s n i p).dec n).Ready := by
  rw [decConsumed_dec]
  exact ⟨h.live, h.fault, h.idle⟩

theorem State.Port.decConsumed (hP : State.Port n P) (h : P (i :: l) s) : P l (decConsumed s n i p) :=
  hP.congr (hP.pop h) rfl (by simp [State.decTake_eq_decConsumed]) (by simp [State.decTake_eq_decConsumed])

/-- `PRIME` at a group boundary takes the first index, if there is one. -/
theorem State.Port.prime (hP : State.Port n P) (hr : (s.dec n).Ready) (hp : (s.dec n).pos = 0) (h : P l s) :
    (s.prime n).Primed P n l := by
  cases l with
  | nil =>
    rw [s.prime_else n fun i hi => by obtain h | h := hP.ended h <;> cases h.symm.trans hi]
    exact ⟨hr, h⟩
  | cons i l =>
    rw [s.prime_data n (hP.head h)]
    exact ⟨hr.decConsumed, by rw [State.decTake_eq_decConsumed, decConsumed_dec, hp],
      by rw [State.decTake_eq_decConsumed, decConsumed_dec], hP.pop h⟩

/-! ### What a decoder yields -/

/-- A round of `DRAIN` on decoder `n` returns `v` and leaves `t`. -/
structure State.PopsByte (n : Nat) (s : State) (v : Byte) (t : State) : Prop where
  fault : (s.dec n).com.fault = .none
  empty : s.decEmpty n = false
  issue : s.issue n .decPop = t
  ret : t.ret = .byte v

/-- From `s` rounds of `DRAIN` on decoder `n` return the bytes `vs` and leave `t`. -/
inductive State.Yields (n : Nat) : State → List Byte → State → Prop
  | nil (s : State) : Yields n s [] s
  | cons {s m t : State} {v : Byte} {vs : List Byte} : s.PopsByte n v m → Yields n m vs t → Yields n s (v :: vs) t

/-- `DRAIN` with enough rounds returns what the decoder yields, and stops where `EMPTY` is 1. -/
theorem decDrain_of_yields {vs : List Byte} (h : State.Yields n s vs t) (ht : t.decEmpty n = true) (k : Nat) :
    State.decDrain n (vs.length + k) s = (vs, t) := by
  induction h with
  | nil s => cases k <;> simp [State.decDrain, ht]
  | @cons s m t v vs hv _ ih =>
    obtain ⟨hf, he, rfl, hret⟩ := hv
    rw [List.length_cons, Nat.add_right_comm, State.decDrain, if_pos ⟨hf, he⟩, hret]
    simp only [ih ht]

/-- With a data symbol at the head `POP` returns the byte of the position and advances. -/
theorem State.Reads.popsByte (hP : State.Port n P) (h : s.Reads P n p i (j :: l)) :
    ∃ s' : State, s'.dec n = s.dec n ∧ P (j :: l) s' ∧
      s.PopsByte n ((s.dec n).byte j) ((s'.decAdvanced n j false).withRet (.byte ((s.dec n).byte j))) := by
  obtain ⟨⟨hl, hf, hb⟩, -, -, ha⟩ := h
  have ha' : P (j :: l) { s with port := n, tick := s.tick + 1 } := hP.congr ha rfl rfl rfl
  obtain ⟨-, -, -, -, hpop⟩ := decRow_of_data (s := { s with port := n, tick := s.tick + 1 }) hb hf hl (hP.head ha')
  refine ⟨{ s with port := n, tick := s.tick + 1 }, rfl, ha', hf, ?_, State.issue_eq hpop, rfl⟩
  simp [← Bool.not_eq_true, State.decEmpty_iff hb hf, State.DecStopped, hl, hP.head ha]

/-- A `POP` inside a group. -/
theorem State.Reads.pop_inside (hP : State.Port n P) (h : s.Reads P n p i (j :: l)) (hp : p ≠ 2) :
    ∃ t, s.PopsByte n ((s.dec n).byte j) t ∧ t.Reads P n (p + 1) j l := by
  obtain ⟨s', hdec, ha, hpop⟩ := h.popsByte hP
  rw [State.decAdvanced_inside (by rwa [hdec, h.pos]), hdec, h.pos] at hpop
  have hready : ((decConsumed s' n j (p + 1)).dec n).Ready := (hdec ▸ h.ready : (s'.dec n).Ready).decConsumed
  exact ⟨_, hpop, hready, by simp, by simp, hP.congr (hP.decConsumed ha) rfl rfl rfl⟩

/-- A `POP` on the wrap, which primes the next group. -/
theorem State.Reads.pop_wrap (hP : State.Port n P) (h : s.Reads P n 2 i (j :: l)) :
    ∃ t, s.PopsByte n (decByte2 i j) t ∧ t.Primed P n l := by
  obtain ⟨s', hdec, ha, hpop⟩ := h.popsByte hP
  rw [State.decAdvanced_wrap (by rw [hdec, h.pos]), show (s.dec n).byte j = decByte2 i j by
    simp [Dec.byte, h.pos, h.prev]] at hpop
  have hready : ((decConsumed s' n j 0).dec n).Ready := (hdec ▸ h.ready : (s'.dec n).Ready).decConsumed
  have hprimed := hP.prime (s := (decConsumed s' n j 0).nextEdge) hready (by simp)
    (hP.congr (hP.decConsumed ha) rfl rfl rfl)
  exact ⟨_, hpop, hprimed.withRet hP _⟩

/-- The first byte of a group. -/
theorem State.Reads.pop_first (hP : State.Port n P) (h : s.Reads P n 0 i (j :: l)) :
    ∃ t, s.PopsByte n (decByte0 i j) t ∧ t.Reads P n 1 j l := by
  simpa [Dec.byte, h.pos, h.prev] using h.pop_inside hP (by decide)

/-- The second byte of a group. -/
theorem State.Reads.pop_second (hP : State.Port n P) (h : s.Reads P n 1 i (j :: l)) :
    ∃ t, s.PopsByte n (decByte1 i j) t ∧ t.Reads P n 2 j l := by
  simpa [Dec.byte, h.pos, h.prev] using h.pop_inside hP (by decide)

/-- Group by group, the decoder yields the bytes of the indices before it and has then no more. -/
theorem State.Primed.yields (hP : State.Port n P) (h : s.Primed P n l) :
    ∃ t, State.Yields n s (decodedBytes l) t ∧ t.Ends P n := by
  induction l using decodedBytes.induct generalizing s with
  | case1 => exact ⟨s, .nil s, h⟩
  | case2 i0 => exact ⟨s, .nil s, h.ends⟩
  | case3 i0 i1 =>
    obtain ⟨t, h0, h⟩ := h.pop_first hP
    exact ⟨t, .cons h0 (.nil t), h.ends⟩
  | case4 i0 i1 i2 =>
    obtain ⟨m, h0, h⟩ := h.pop_first hP
    obtain ⟨t, h1, h⟩ := h.pop_second hP
    exact ⟨t, .cons h0 (.cons h1 (.nil t)), h.ends⟩
  | case5 i0 i1 i2 i3 l ih =>
    obtain ⟨_, h0, h⟩ := h.pop_first hP
    obtain ⟨_, h1, h⟩ := h.pop_second hP
    obtain ⟨_, h2, h⟩ := h.pop_wrap hP
    obtain ⟨t, hrest, hend⟩ := ih h
    exact ⟨t, .cons h0 (.cons h1 (.cons h2 hrest)), hend⟩

theorem State.Ends.decDrained (hP : State.Port n P) (h : s.Ends P n) : s.DecDrained n :=
  ⟨h.ready.fault, h.ready.live, (State.decEmpty_iff h.ready.idle h.ready.fault).2 (.inr (hP.ended h.ahead))⟩

/-- A run of `DRAIN` with enough rounds: the bytes returned, and the state left. -/
theorem State.Primed.decDrain (hP : State.Port n P) (h : s.Primed P n l) {k : Nat}
    (hk : (decodedBytes l).length ≤ k) :
    (State.decDrain n k s).1 = decodedBytes l ∧ (State.decDrain n k s).2.Ends P n := by
  obtain ⟨t, hy, hend⟩ := h.yields hP
  have hrun := decDrain_of_yields hy (hend.decDrained hP).2.2 (k - (decodedBytes l).length)
  rw [Nat.add_sub_cancel' hk] at hrun
  rw [hrun]
  exact ⟨rfl, hend⟩

/-- An accepted construction starts the decoder afresh on the source it has, and primes (rule R172). -/
theorem State.issue_decConstruct (rd adv : Bool) (h : accepted s = true) (hb : (s.dec n).needPrime = false) :
    ∃ u : State, s.issue n (.decConstruct rd adv) = (u.prime n).withRet .done ∧
      u.dec n = ⟨built s, 0, 0#6, false, (s.dec n).src⟩ ∧ u.encs = s.encs :=
  ⟨_, State.issue_eq ((decoderConstruction { s with port := n, tick := s.tick + 1 } rd adv hb).1 h).1,
    State.setDec_dec_same _ _ _, rfl⟩

/-! ### Over a finite stream -/

/-- Decoder `n` has a finite stream before it whose classes are data of the indices `l`, then `w`. -/
def State.Streams (n : Nat) (w : List SymClass) (l : List Idx) (s : State) : Prop :=
  ∃ src v, (s.dec n).src = .stream src ∧ src.Holds v ∧ v.map (s.dec n).com.rev = l.map .data ++ w

theorem State.decHead_stream {src : Source} {v : List Byte} (hs : (s.dec n).src = .stream src) (h : src.Holds v) :
    s.decHead n = (v.map (s.dec n).com.rev).head? := by
  rw [State.decHead, hs]
  cases v with
  | nil => simp [State.head, State.wireEmpty, h.exhausted]
  | cons b v =>
    obtain ⟨hx, hb, -⟩ := h.head
    simp [State.head, State.wireEmpty, State.wireFront, hx, hb]

theorem State.port_streams (n : Nat) {w : List SymClass} (hw : ∀ x ∈ w.head?, x = .pad) :
    State.Port n (State.Streams n w) where
  head := by
    rintro i l s ⟨src, v, hs, hv, hc⟩
    rw [State.decHead_stream hs hv, hc]
    rfl
  pop := by
    rintro i l s ⟨src, v, hs, hv, hc⟩
    obtain ⟨b, v, rfl, -, hc⟩ := List.map_eq_cons_iff.1 hc
    obtain ⟨-, -, hpop⟩ := hv.head
    exact ⟨src.pop, v, by simp [State.decTake, hs, Wire.popped], hpop, by simpa [State.decTake] using hc⟩
  ended := by
    rintro s ⟨src, v, hs, hv, hc⟩
    rw [State.decHead_stream hs hv, hc, List.map_nil, List.nil_append]
    cases w with
    | nil => exact .inl rfl
    | cons x w => exact .inr (congrArg some (hw x rfl))
  congr := by
    rintro l s t ⟨src, v, hs, hv, hc⟩ - hcom hsrc
    exact ⟨src, v, hsrc.trans hs, hv, by rwa [hcom]⟩

/-- A drained run over candidates that are data symbols of the indices `l` up to the first padding symbol, if any. -/
theorem decDrain_decOver {v : List Byte} {w : List SymClass} (h : accepted s = true) (hb : (s.dec n).needPrime = false)
    (hv : v.map (built s).rev = l.map .data ++ w) (hw : ∀ x ∈ w.head?, x = .pad) :
    s.decodeSymbols n v = decodedBytes l ∧
      (State.decDrain n (v.length + 1) (s.decOver n v)).2.DecDrained n := by
  have hP := State.port_streams n hw
  obtain ⟨u, hu, hdec, -⟩ := State.issue_decConstruct (s := s.setDec n { s.dec n with src := .stream (Source.of v) })
    (n := n) false false h (by simpa using hb)
  rw [State.setDec_dec_same] at hdec
  have hahead : State.Streams n w l u := ⟨Source.of v, v, by rw [hdec], Source.holds_of v, by rw [hdec]; exact hv⟩
  have hprimed : (s.decOver n v).Primed (State.Streams n w) n l := by
    rw [State.decOver, hu]
    exact (hP.prime (by rw [hdec]; exact ⟨rfl, rfl, rfl⟩) (by rw [hdec]) hahead).withRet hP _
  have hlen : (decodedBytes l).length ≤ v.length + 1 := by
    have := congrArg List.length hv
    simp only [List.length_map, List.length_append] at this
    rw [decodedBytes_length]
    omega
  obtain ⟨hbytes, hend⟩ := hprimed.decDrain hP hlen
  exact ⟨hbytes, hend.decDrained hP⟩

/-! ### Decoding what encoding produces -/

/-- The indices of the bytes: four a group of three, a last group of one or two taking an absent byte. -/
def encodedIndices : List Byte → List Idx
  | [] => []
  | [b0] => [encIdx0 b0, encIdx1 b0 0#8]
  | [b0, b1] => [encIdx0 b0, encIdx1 b0 b1, encIdx2 b1 0#8]
  | b0 :: b1 :: b2 :: l => [encIdx0 b0, encIdx1 b0 b1, encIdx2 b1 b2, encIdx3 b2] ++ encodedIndices l

/-- The symbols of the bytes are those of their indices, then padding. -/
theorem encodedSymbols_eq_map_fwd (c : Common) (b : List Byte) :
    ∃ k, encodedSymbols c b = (encodedIndices b).map c.fwd ++ List.replicate k c.padSym := by
  induction b using encodedSymbols.induct with
  | case1 => exact ⟨0, rfl⟩
  | case2 b0 => exact ⟨2, rfl⟩
  | case3 b0 b1 => exact ⟨1, rfl⟩
  | case4 b0 b1 b2 l ih =>
    obtain ⟨k, hk⟩ := ih
    exact ⟨k, by simp [encodedSymbols, encodedIndices, hk]⟩

theorem decByte0_encIdx (b0 b1 : Byte) : decByte0 (encIdx0 b0) (encIdx1 b0 b1) = b0 := by
  apply BitVec.eq_of_toNat_eq
  rw [decByte0_toNat, encIdx0_toNat, encIdx1_toNat]
  omega

theorem decByte1_encIdx (b0 b1 b2 : Byte) : decByte1 (encIdx1 b0 b1) (encIdx2 b1 b2) = b1 := by
  apply BitVec.eq_of_toNat_eq
  rw [decByte1_toNat, encIdx1_toNat, encIdx2_toNat]
  omega

theorem decByte2_encIdx (b1 b2 : Byte) : decByte2 (encIdx2 b1 b2) (encIdx3 b2) = b2 := by
  apply BitVec.eq_of_toNat_eq
  rw [decByte2_toNat, encIdx2_toNat, encIdx3_toNat]
  omega

/-- Rule R188, on the indices. -/
theorem decodedBytes_encodedIndices (b : List Byte) : decodedBytes (encodedIndices b) = b := by
  induction b using encodedSymbols.induct with
  | case1 => rfl
  | case2 b0 => simp [encodedIndices, decodedBytes, decByte0_encIdx]
  | case3 b0 b1 => simp [encodedIndices, decodedBytes, decByte0_encIdx, decByte1_encIdx]
  | case4 b0 b1 b2 l ih =>
    simp [encodedIndices, decodedBytes, decByte0_encIdx, decByte1_encIdx, decByte2_encIdx, ih]

/-- The classes of what an encoder produces: data of the indices, then padding. -/
theorem rev_encodedSymbols {c : Common} (hok : cfgOk (zext8 c.c62) (zext8 c.c63) (zext8 c.cpad) = true) (b : List Byte) :
    ∃ k, ((encodedSymbols c b).map zext8).map c.rev =
      (encodedIndices b).map .data ++ List.replicate k .pad := by
  obtain ⟨k, hk⟩ := encodedSymbols_eq_map_fwd c b
  exact ⟨k, by simp [hk, Common.rev_fwd hok, Common.padSym, Function.comp_def]⟩

/-- Only padding is at the head of padding. -/
theorem eq_pad_of_mem_head?_replicate {k : Nat} : ∀ x ∈ (List.replicate k SymClass.pad).head?, x = .pad :=
  fun _ hx => List.eq_of_mem_replicate (List.mem_of_mem_head? hx)

/-- Settles O35: the symbols produced are those of the indices of the bytes, and the decoder joins these again. -/
theorem decodeOfEncodeIsIdentity : Obligations.DecodeOfEncodeIsIdentity := by
  intro s n m b h hb
  obtain ⟨k, hk⟩ := rev_encodedSymbols (cfgOk_built h) b
  rw [(encDrain_encOver b h).1, (decDrain_decOver h hb hk eq_pad_of_mem_head?_replicate).1, decodedBytes_encodedIndices]

end Sys2Proof.Machine
end

section
/-! A run of a validator over a finite stream (rules R200, R210), as a fold over the classes of the candidates, and the
number of bytes a decoder produces from what a validator accepts (rule R187). -/

namespace Sys2Proof.Machine

open Sys2Proof.Claims

variable {s : State} {n : Nat} {c : Common} {t : List Byte}

/-! ### `RUN` -/

/-- A validator with table `c` and the candidates `t` before it. -/
structure Val.Before (v : Val) (c : Common) (t : List Byte) : Prop where
  com : v.com = c
  src : ∃ src, v.src = .stream src ∧ src.Holds t

/-- An accepted construction of a validator (rule R202). -/
theorem exec_valConstruct_accepted (rd adv : Bool) (h : accepted s = true) :
    exec (.valConstruct rd adv) s =
      .next ((s.setVal s.port ⟨built s, 0, 0, false, (s.val s.port).src⟩).withRet .done) := by
  rw [exec, execValConstruct, Common.build_accepted _ _ _ _ h, outcome_accepted h]
  rfl

theorem State.valOver_val (h : accepted s = true) :
    (s.valOver n t).val n = ⟨built s, 0, 0, false, .stream (Source.of t)⟩ := by
  rw [State.valOver, State.issue_eq (exec_valConstruct_accepted (s := { s.setVal n _ with port := n, tick := s.tick + 1 })
    false false h), State.withRet_val, State.setVal_val_same]
  exact congrArg (Val.mk (built s) 0 0 false) (congrArg Val.src (s.setVal_val_same n _))

/-- A `STEP` with a symbol at the head consumes it (rule R204). -/
theorem exec_valStep_head (rd : Bool) {cls : SymClass} (hl : (s.val s.port).com.live = true)
    (hf : (s.val s.port).com.fault = .none) (h : s.head (s.val s.port).com (s.val s.port).src = some cls) :
    exec (.valStep rd) s = .next
      (((s.wirePop (s.val s.port).src).setVal s.port ((s.val s.port).stepped cls)).withRet .done) := by
  simp [exec, execValStep, hl, hf, h]

section Live

variable (hl : c.live = true) (hf : c.fault = .none)
include hl hf

theorem State.issue_valStep {b : Byte} (h : (s.val n).Before c (b :: t)) :
    (s.issue n (.valStep false)).val n = (s.val n).stepped (c.rev b) ∧
      ((s.val n).stepped (c.rev b)).Before c t := by
  obtain ⟨rfl, src, hsrc, hv⟩ := h
  obtain ⟨hx, hb, hpop⟩ := hv.head
  have hhead : State.head { s with port := n, tick := s.tick + 1 } (s.val n).com (s.val n).src =
      some ((s.val n).com.rev b) := by
    simp [State.head, State.wireEmpty, State.wireFront, hsrc, hx, hb]
  refine ⟨?_, rfl, src.pop, by simp [Val.stepped, hsrc, Wire.popped], hpop⟩
  rw [State.issue_eq (exec_valStep_head (s := { s with port := n, tick := s.tick + 1 }) false hl hf hhead)]
  exact State.setVal_val_same _ _ _

/-- `RUN` steps through the candidates, of whatever class. -/
theorem valRun_val (h : (s.val n).Before c t) :
    (State.valRun n t.length s).val n = (t.map c.rev).foldl Val.stepped (s.val n) := by
  induction t generalizing s with
  | nil => rfl
  | cons b t ih =>
    obtain ⟨hval, hrest⟩ := State.issue_valStep hl hf h
    obtain ⟨hcom, src, hsrc, hv⟩ := h
    have hx : s.wireEmpty (s.val n).src = false := by simp [State.wireEmpty, hsrc, hv.head.1]
    rw [List.length_cons, State.valRun, if_pos ⟨hcom ▸ hf, hx⟩, ih (hval ▸ hrest), hval]
    rfl

end Live

theorem isValid_eq_ok (h : accepted s = true) : s.isValid n t =
    (((t.map (built s).rev).foldl Val.stepped ⟨built s, 0, 0, false, .stream (Source.of t)⟩).ok) := by
  have hover := State.valOver_val (n := n) (t := t) h
  have hbefore : ((s.valOver n t).val n).Before (built s) t := hover ▸ ⟨rfl, _, rfl, Source.holds_of t⟩
  rw [State.isValid, State.valOk, valRun_val rfl rfl hbefore, hover]

/-! ### What a validator accepts -/

theorem foldl_stepped_cnt (cs : List SymClass) (v : Val) :
    (cs.foldl Val.stepped v).cnt.val = (v.cnt.val + cs.length) % 4 := by
  induction cs generalizing v with
  | nil => exact (Nat.mod_eq_of_lt v.cnt.isLt).symm
  | cons x cs ih =>
    rw [List.foldl_cons, ih, List.length_cons, show (v.stepped x).cnt = v.cnt + 1 from rfl, Fin.val_add]
    simp
    omega

/-- Where `bad` stays 0 and `npad` at most 2, the classes are data and then padding, the data only if no padding came
before. -/
theorem classes_of_foldl_stepped {cs : List SymClass} {v : Val} (hbad : (cs.foldl Val.stepped v).bad = false)
    (hpad : (cs.foldl Val.stepped v).npad ≤ 2) :
    v.bad = false ∧ ∃ (l : List Idx) (k : Nat), cs = l.map .data ++ List.replicate k .pad ∧ v.npad.val + k ≤ 2 ∧
      (v.npad ≠ 0 → l = []) := by
  induction cs generalizing v with
  | nil => exact ⟨hbad, [], 0, rfl, hpad, fun _ => rfl⟩
  | cons x cs ih =>
    obtain ⟨hb, l, k, rfl, hk, hl⟩ := ih hbad hpad
    cases x with
    | data i =>
      have hb' : v.bad = false ∧ v.npad = 0 := by simpa [Val.stepped, badNext] using hb
      exact ⟨hb'.1, i :: l, k, rfl, hk, fun h => absurd hb'.2 h⟩
    | pad =>
      have h3 : v.npad ≠ 3 := fun h3 => by
        have hstep : (v.stepped .pad).npad = 3 := by simp [Val.stepped, npadNext, h3]
        omega
      have hstep : (v.stepped .pad).npad = v.npad + 1 := by simp [Val.stepped, npadNext, h3]
      have hval : (v.npad + 1).val = v.npad.val + 1 := by omega
      rw [hstep] at hk hl
      obtain rfl := hl (by omega)
      exact ⟨hb, [], k + 1, rfl, by omega, fun _ => rfl⟩
    | invalid => cases hb

/-- A validator accepts only data and then at most two padding symbols, of a length that is a multiple of 4 (rule R200). -/
theorem classes_of_isValid (h : accepted s = true) (ht : s.isValid n t = true) :
    t.length % 4 = 0 ∧ ∃ (l : List Idx) (k : Nat),
      t.map (built s).rev = l.map .data ++ List.replicate k .pad ∧ k ≤ 2 := by
  rw [isValid_eq_ok h] at ht
  simp only [Val.ok, Bool.and_eq_true, Bool.not_eq_true', decide_eq_true_eq] at ht
  obtain ⟨⟨⟨-, hbad⟩, hpad⟩, hcnt⟩ := ht
  obtain ⟨-, l, k, hc, hk, -⟩ := classes_of_foldl_stepped hbad hpad
  have hlen := (foldl_stepped_cnt (t.map (built s).rev) ⟨built s, 0, 0, false, .stream (Source.of t)⟩).symm.trans
    (congrArg Fin.val hcnt)
  exact ⟨by simpa using hlen, l, k, hc, by simpa using hk⟩

/-! ### The number of bytes -/

theorem countP_pad_eq {l : List Idx} {k : Nat} (h : t.map c.rev = l.map .data ++ List.replicate k .pad) :
    (t.countP fun x => c.rev x = .pad) = k := by
  have := congrArg (List.countP fun x : SymClass => x = .pad) h
  simpa [List.countP_map, List.countP_replicate, Function.comp_def] using this

/-- The data symbols have indices. -/
theorem exists_indices (h : ∀ v ∈ t, ∃ i, c.rev v = .data i) : ∃ l : List Idx, t.map c.rev = l.map .data := by
  induction t with
  | nil => exact ⟨[], rfl⟩
  | cons b t ih =>
    obtain ⟨⟨i, hi⟩, ht⟩ := List.forall_mem_cons.1 h
    obtain ⟨l, hl⟩ := ih ht
    exact ⟨i :: l, by rw [List.map_cons, hi, hl, List.map_cons]⟩

/-- Settles O34: both counts are the number of bytes of the indices, which the validator says is all but the padding. -/
theorem decodedLength : Obligations.DecodedLength := by
  refine ⟨fun s n v t h hb hvalid => ?_, fun s n t u h hb ht hu => ?_⟩
  · obtain ⟨hmod, l, k, hc, hk⟩ := classes_of_isValid h hvalid
    have hlen := congrArg List.length hc
    simp only [List.length_map, List.length_append, List.length_replicate] at hlen
    rw [(decDrain_decOver h hb hc eq_pad_of_mem_head?_replicate).1, decodedBytes_length, countP_pad_eq hc]
    omega
  · obtain ⟨l, hl⟩ := exists_indices ht
    have hlen := congrArg List.length hl
    simp only [List.length_map] at hlen
    have hc : (t ++ u).map (built s).rev = l.map .data ++ u.map (built s).rev := by rw [List.map_append, hl]
    obtain ⟨hbytes, hdrained⟩ := decDrain_decOver h hb hc (by
      cases u with
      | nil => simp
      | cons b u => simpa using hu)
    exact ⟨by rw [hbytes, decodedBytes_length, hlen], hdrained⟩

end Sys2Proof.Machine
end

section
/-! A decoder that has ended (rule R173). Its own commands raise `PREMATURE` or are ignored; every other command is confined
to its own unit and the encoder that unit is wired to, which the one-driver rule (R272) keeps apart from the encoder behind
the ended decoder. -/

namespace Sys2Proof.Machine

open Sys2Proof.Claims

variable {s t u : State} {n m : Nat} {i : Instr}

/-! ### What a decoder's command is confined to -/

/-- From `s` to `t` decoder `n` and the encoder its port is wired to may change, no other unit, and no wire. -/
structure State.DecConfined (n : Nat) (s t : State) : Prop where
  dec : ∀ m, m ≠ n → t.dec m = s.dec m
  enc : ∀ k, (s.dec n).src ≠ .encoder k → t.enc k = s.enc k
  wire : ∀ k, (t.dec n).src = .encoder k ↔ (s.dec n).src = .encoder k
  vals : t.vals = s.vals

theorem State.DecConfined.refl (n : Nat) (s : State) : DecConfined n s s :=
  ⟨fun _ _ => rfl, fun _ _ => rfl, fun _ => Iff.rfl, rfl⟩

theorem State.DecConfined.trans (h : DecConfined n s t) (h' : DecConfined n t u) : DecConfined n s u :=
  ⟨fun m hm => (h'.dec m hm).trans (h.dec m hm),
    fun k hk => (h'.enc k fun e => hk ((h.wire k).1 e)).trans (h.enc k hk),
    fun k => (h'.wire k).trans (h.wire k), h'.vals.trans h.vals⟩

/-- Writing the decoder's registers is confined to it. -/
theorem State.decConfined_setDec {d : Dec} (h : d.src = (s.dec n).src) : DecConfined n s (s.setDec n d) :=
  ⟨fun _ hm => s.setDec_dec_other d hm, fun _ _ => rfl, fun k => by rw [s.setDec_dec_same, h], rfl⟩

theorem State.decConfined_decTake (n : Nat) (s : State) (c : Idx) : DecConfined n s (s.decTake n c) := by
  obtain ⟨hv, -, -, -, -, -, -, he, hd, hn⟩ := s.decTake_other n c
  refine ⟨hd, fun k hk => ?_, fun k => ?_, hv⟩
  · exact (congrArg (unitGet Enc.reset · k) he).trans (s.wirePop_enc k _ hk)
  · rw [hn]
    cases (s.dec n).src <;> simp [Wire.popped]

theorem State.decConfined_prime (n : Nat) (s : State) : DecConfined n s (s.prime n) := by
  obtain ⟨c, -, h⟩ | ⟨-, h⟩ := s.prime_cases n <;> rw [h]
  · exact decConfined_decTake n s c
  · exact .refl n s

theorem State.decConfined_primeEdge (n : Nat) (s : State) : DecConfined n s (s.primeEdge n) :=
  (decConfined_prime n s).trans (decConfined_setDec (by rfl))

theorem State.decConfined_owePrime (n : Nat) (s : State) (pinLevel : Bool) :
    DecConfined n s (s.owePrime n pinLevel) := by
  cases pinLevel
  · obtain ⟨hd, he, hw, hv⟩ := decConfined_prime n s.nextEdge
    exact ⟨hd, he, hw, hv⟩
  · exact decConfined_setDec (by rfl)

theorem State.decConfined_decAdvanced (n : Nat) (s : State) (c : Idx) (pinLevel : Bool) :
    DecConfined n s (s.decAdvanced n c pinLevel) := by
  have taken := decConfined_decTake n s c
  obtain ⟨-, h⟩ | ⟨-, h⟩ := s.decAdvanced_cases n c pinLevel <;> rw [h]
  · exact taken.trans (decConfined_setDec (by rfl))
  · exact (taken.trans (decConfined_setDec (by rfl))).trans (decConfined_owePrime n _ pinLevel)

/-- The recorded outcome is no unit. -/
theorem State.DecConfined.withRet (h : DecConfined n s t) (r : Ret) : DecConfined n s (t.withRet r) :=
  ⟨h.dec, h.enc, h.wire, h.vals⟩

theorem State.decConfined_raise (n : Nat) (s : State) (f : FaultCode) : DecConfined n s (s.raise .dec n f) :=
  (decConfined_setDec (by rfl)).withRet _

/-- A strobed operation is confined to the decoder if its completion is. -/
theorem State.decConfined_decStrobe {rd : Bool} {k : Dec → Idx → State}
    (hk : ∀ c, DecConfined s.port s (k (s.dec s.port) c)) : DecConfined s.port s (s.decStrobe rd k) := by
  obtain ⟨-, e⟩ | ⟨-, ⟨-, e⟩ | ⟨-, ⟨-, e⟩ | ⟨-, ⟨-, e⟩ | ⟨-, e⟩ | ⟨c, -, e⟩⟩⟩⟩ := s.decStrobe_cases rd k <;> rw [e]
  · have primed := decConfined_primeEdge s.port s
    cases rd
    · exact primed
    · exact primed.withRet _
  · exact (DecConfined.refl _ s).withRet _
  · exact decConfined_raise _ s _
  · exact decConfined_raise _ s _
  · exact decConfined_raise _ s _
  · exact hk c

theorem State.decConfined_decConstruct (s : State) (pinLevel : Bool) :
    DecConfined s.port s (s.decConstruct pinLevel) := by
  unfold State.decConstruct
  dsimp only
  split
  · exact decConfined_primeEdge s.port s
  · split
    · exact ((decConfined_setDec (by rfl)).trans (decConfined_owePrime _ _ pinLevel)).withRet _
    · exact (decConfined_setDec (by rfl)).withRet _

/-- Every command of a decoder is confined to it. -/
theorem exec_decConfined (hi : i.unit = .dec) (ht : exec i s = .next t) : State.DecConfined s.port s t := by
  cases i <;> cases hi <;> cases ht
  case decNop =>
    split
    · exact State.decConfined_primeEdge s.port s
    · exact (State.DecConfined.refl _ s).withRet _
  case decAdvance | decPop =>
    exact State.decConfined_decStrobe fun c => (State.decConfined_decAdvanced _ s c false).withRet _
  case decFront => exact State.decConfined_decStrobe fun _ => (State.DecConfined.refl _ s).withRet _
  case decConstruct => exact s.decConfined_decConstruct false

/-- And so is every clock edge of it. -/
theorem edge_decConfined (hi : i.unit = .dec) (ht : edge i s = .next t) : State.DecConfined s.port s t := by
  cases i with
  | decAdvance | decPop =>
    cases ht
    exact State.decConfined_decStrobe fun c => (State.decConfined_decAdvanced _ s c true).withRet _
  | decConstruct =>
    cases ht
    exact s.decConfined_decConstruct true
  | _ => exact exec_decConfined hi ht

/-! ### What the other units' commands leave alone -/

/-- An edge of any other unit is its operation (rule R110). -/
theorem edge_eq_exec (hi : i.unit ≠ .dec) : edge i s = exec i s := by
  cases i with
  | decNop | decAdvance | decFront | decPop | decConstruct => exact absurd rfl hi
  | _ => rfl

/-- A strobed command of an encoder leaves alone what its completion does. -/
theorem State.encStrobe_frame {k : Enc → State}
    (hk : (k (s.enc s.port)).decs = s.decs ∧ ∀ m, m ≠ s.port → (k (s.enc s.port)).enc m = s.enc m) :
    (s.encStrobe k).decs = s.decs ∧ ∀ m, m ≠ s.port → (s.encStrobe k).enc m = s.enc m := by
  obtain ⟨-, e⟩ | ⟨-, -, e⟩ | ⟨-, -, e⟩ := s.encStrobe_cases k <;> rw [e]
  · exact ⟨rfl, fun _ _ => rfl⟩
  · exact ⟨rfl, fun _ hm => s.setEnc_enc_other _ hm⟩
  · exact hk

/-- A command of an encoder writes that encoder alone, and `NOP` none. -/
theorem exec_enc_frame (hi : i.unit = .enc) (ht : exec i s = .next t) :
    t.decs = s.decs ∧ ∀ m, m ≠ s.port ∨ i = .encNop → t.enc m = s.enc m := by
  cases i <;> cases hi <;> cases ht <;> simp only [reduceCtorEq, or_false]
  case encNop => exact ⟨rfl, fun _ _ => rfl⟩
  case encFront => exact State.encStrobe_frame ⟨rfl, fun _ _ => rfl⟩
  case encAdvance | encPop => exact State.encStrobe_frame ⟨rfl, fun _ hm => s.setEnc_enc_other _ hm⟩
  case encConstruct => exact ⟨rfl, fun _ hm => s.setEnc_enc_other _ hm⟩

/-- A command of a validator writes that validator and the encoder its port is wired to. -/
theorem exec_val_frame (hi : i.unit = .val) (ht : exec i s = .next t) :
    t.decs = s.decs ∧ ∀ k, (s.val s.port).src ≠ .encoder k → t.enc k = s.enc k := by
  cases i <;> cases hi
  case valNop | valConstruct =>
    cases ht
    exact ⟨rfl, fun _ _ => rfl⟩
  case valStep =>
    obtain ⟨-, e⟩ | ⟨-, ⟨-, e⟩ | ⟨-, cls, -, e⟩⟩ := execValStep_cases s <;> cases e.symm.trans ht
    · exact ⟨rfl, fun _ _ => rfl⟩
    · exact ⟨rfl, fun _ _ => rfl⟩
    · exact ⟨s.wirePop_decs _, fun k hk => s.wirePop_enc k _ hk⟩

/-- A command of a table writes that table. -/
theorem exec_tbl_frame (hi : i.unit = .tbl) (ht : exec i s = .next t) : t.decs = s.decs ∧ t.encs = s.encs := by
  cases i <;> cases hi <;> cases ht
  case tblNop => exact ⟨rfl, rfl⟩
  case tblBuild => exact ⟨rfl, rfl⟩

/-! ### An ended decoder -/

/-- Decoder `n` is stopped, whatever a free value may be. -/
def State.DecEnded (n : Nat) (s : State) : Prop := ∀ tick, ({ s with tick := tick } : State).DecStopped n

/-- The head a decoder sees hangs on its table, its port and the encoder behind it. -/
theorem State.decHead_congr (hsrc : (t.dec n).src = (s.dec n).src) (hrev : (t.dec n).com.rev = (s.dec n).com.rev)
    (henc : ∀ k, (s.dec n).src = .encoder k → t.enc k = s.enc k) (htick : t.tick = s.tick) :
    t.decHead n = s.decHead n := by
  cases hw : (s.dec n).src with
  | stream src => simp [State.decHead, State.head, State.wireEmpty, State.wireFront, hsrc, hrev, hw]
  | encoder k =>
    simp [State.decHead, State.head, State.wireEmpty, State.wireFront, State.encEmpty, State.encFront, hsrc, hrev, hw,
      henc k hw, htick]

theorem State.DecEnded.congr (h : s.DecEnded n) (hlive : (t.dec n).com.live = (s.dec n).com.live)
    (hsrc : (t.dec n).src = (s.dec n).src) (hrev : (t.dec n).com.rev = (s.dec n).com.rev)
    (henc : ∀ k, (s.dec n).src = .encoder k → t.enc k = s.enc k) : t.DecEnded n := by
  intro tick
  have hhead := State.decHead_congr (s := { s with tick := tick }) (t := { t with tick := tick }) hsrc hrev henc rfl
  exact (h tick).imp hlive.trans (hhead ▸ ·)

/-- The same decoder over the same encoder. -/
theorem State.DecEnded.of_same (h : s.DecEnded n) (hd : t.dec n = s.dec n)
    (henc : ∀ k, (s.dec n).src = .encoder k → t.enc k = s.enc k) : t.DecEnded n :=
  h.congr (by rw [hd]) (by rw [hd]) (by rw [hd]) henc

/-- A strobed command of a decoder that has ended is ignored or raises `PREMATURE`. -/
theorem State.decStrobe_of_ended {rd : Bool} {k : Dec → Idx → State} (hb : (s.dec s.port).needPrime = false)
    (h : s.DecStopped s.port) :
    s.decStrobe rd k = s.withRet .ignored ∨ s.decStrobe rd k = decFaulted s .premature := by
  by_cases hf : (s.dec s.port).com.fault = .none
  · right
    obtain hl | h := h
    · rw [s.decStrobe_notLive rd k hb hf hl, s.raise_dec _ _ hf]
      rfl
    · rw [s.decStrobe_ended rd k hb hf h, s.raise_dec _ _ hf]
      rfl
  · exact .inl (s.decStrobe_faulted rd k hb hf)

/-- What a command of an ended decoder leaves, but a construction, as an operation or at a clock edge. -/
theorem exec_of_decEnded (hi : i.unit = .dec) (hc : constructs i = false) (hb : (s.dec s.port).needPrime = false)
    (h : s.DecStopped s.port)
    (ht : exec i s = .next t ∨ edge i s = .next t) : (∃ r, t = s.withRet r) ∨ t = decFaulted s .premature := by
  have strobed {rd : Bool} {k : Dec → Idx → State} (e : t = s.decStrobe rd k) :
      (∃ r, t = s.withRet r) ∨ t = decFaulted s .premature :=
    (State.decStrobe_of_ended hb h).imp (fun hr => ⟨_, e.trans hr⟩) e.trans
  cases i <;> cases hi
  case decNop =>
    have ht : exec .decNop s = .next t := ht.elim id id
    rw [exec, execDecNop, if_neg (by simp [hb])] at ht
    cases ht
    exact .inl ⟨_, rfl⟩
  case decConstruct => cases hc
  case decFront | decAdvance | decPop => obtain ht | ht := ht <;> cases ht <;> exact strobed rfl

/-- Neither of the two moves the decoder, its port or the head it sees. -/
theorem kept_of_exec_of_decEnded (h : (∃ r, t = s.withRet r) ∨ t = decFaulted s .premature) :
    (t.dec s.port).com.live = (s.dec s.port).com.live ∧ (t.dec s.port).src = (s.dec s.port).src ∧ t.encs = s.encs ∧
      (t.dec s.port).com.rev = (s.dec s.port).com.rev ∧ t.tick = s.tick := by
  obtain ⟨r, rfl⟩ | rfl := h
  · exact ⟨rfl, rfl, rfl, rfl, rfl⟩
  · have hd : (decFaulted s .premature).dec s.port =
        { s.dec s.port with com := { (s.dec s.port).com with fault := .premature } } := s.setDec_dec_same _ _
    rw [hd]
    exact ⟨rfl, rfl, rfl, rfl, rfl⟩

/-! ### An ended decoder through a step -/

/-- Decoder `n` has ended, is not busy, and its port alone is wired to the encoder behind it, if there is one. -/
structure State.DecClosed (n : Nat) (s : State) : Prop where
  ended : s.DecEnded n
  idle : (s.dec n).needPrime = false
  alone : ∀ p k, s.WiredTo p k → (s.dec n).src = .encoder k → p = (.dec, n)

theorem State.DecClosed.congr (h : s.DecClosed n) (he : t.encs = s.encs) (hd : t.decs = s.decs) (hv : t.vals = s.vals) :
    t.DecClosed n := by
  have hdec (m : Nat) : t.dec m = s.dec m := congrArg (unitGet Dec.reset · m) hd
  have hval (m : Nat) : t.val m = s.val m := congrArg (unitGet Val.reset · m) hv
  refine ⟨h.ended.of_same (hdec n) fun k _ => congrArg (unitGet Enc.reset · k) he, hdec n ▸ h.idle, ?_⟩
  rintro ⟨u, m⟩ k hp
  rw [hdec n]
  refine h.alone (u, m) k ?_
  cases u with
  | enc | tbl => exact hp
  | dec => simpa only [State.WiredTo, hdec] using hp
  | val => simpa only [State.WiredTo, hval] using hp

/-- What is confined to another decoder leaves a closed one closed. -/
theorem State.DecClosed.of_confined (h : s.DecClosed n) (hm : m ≠ n) (hc : State.DecConfined m s t) : t.DecClosed n := by
  have hdec : t.dec n = s.dec n := hc.dec n hm.symm
  refine ⟨h.ended.of_same hdec fun k hk => hc.enc k fun hw => ?_, hdec ▸ h.idle, ?_⟩
  · exact hm (Prod.mk.inj (h.alone (.dec, m) k hw hk)).2
  · rintro ⟨u, j⟩ k hp
    rw [hdec]
    refine h.alone (u, j) k ?_
    cases u with
    | enc | tbl => exact hp
    | val => simpa only [State.WiredTo, State.val, hc.vals] using hp
    | dec =>
      by_cases hj : j = m
      · subst hj
        exact (hc.wire k).1 hp
      · simpa only [State.WiredTo, hc.dec j hj] using hp

/-- The primes of other decoders leave it closed. -/
theorem State.DecClosed.settle (h : s.DecClosed n) (driven : Option Nat) : (s.settle driven).DecClosed n :=
  s.settle_keeps driven (P := State.DecClosed n) (fun u m hb _ hu =>
    hu.of_confined (fun e => by rw [e, hu.idle] at hb; cases hb) (State.decConfined_primeEdge m u)) h

theorem State.DecClosed.ended_settle (h : s.DecClosed n) (he : t.encs = s.encs) (hd : t.decs = s.decs)
    (hv : t.vals = s.vals) : (t.settle none).DecEnded n :=
  ((h.congr he hd hv).settle none).ended

/-- The command of an edge leaves a closed decoder ended, unless it constructs it or drives the encoder behind it. -/
theorem State.DecClosed.exec (h : s.DecClosed n) (hc : ¬(constructs i = true ∧ Drives s i .dec n))
    (hx : i.unit = .enc → i ≠ .encNop → (s.dec n).com.live = true → (s.dec n).src ≠ .encoder s.port)
    (ht : exec i s = .next t ∨ edge i s = .next t) : t.DecEnded n := by
  by_cases hi : i.unit = .dec
  · by_cases hn : s.port = n
    · subst hn
      have hc' : constructs i = false := by simpa [Drives, hi] using hc
      obtain ⟨hlive, hsrc, hencs, hrev, -⟩ :=
        kept_of_exec_of_decEnded (exec_of_decEnded hi hc' h.idle (h.ended s.tick) ht)
      exact h.ended.congr hlive hsrc hrev fun k _ => congrArg (unitGet Enc.reset · k) hencs
    · exact (h.of_confined hn (ht.elim (exec_decConfined hi) (edge_decConfined hi))).ended
  · rw [edge_eq_exec hi, or_self] at ht
    cases hu : i.unit with
    | dec => exact absurd hu hi
    | enc =>
      obtain ⟨hdecs, henc⟩ := exec_enc_frame hu ht
      have hdec : t.dec n = s.dec n := congrArg (unitGet Dec.reset · n) hdecs
      cases hl : (s.dec n).com.live
      · exact fun _ => .inl (hdec ▸ hl)
      · refine h.ended.of_same hdec fun k hk => henc k ?_
        by_cases hnop : i = .encNop
        · exact .inr hnop
        · exact .inl fun e => hx hu hnop hl (e ▸ hk)
    | val =>
      obtain ⟨hdecs, henc⟩ := exec_val_frame hu ht
      refine h.ended.of_same (congrArg (unitGet Dec.reset · n) hdecs) fun k hk => henc k fun hw => ?_
      cases h.alone (.val, s.port) k hw hk
    | tbl =>
      obtain ⟨hdecs, hencs⟩ := exec_tbl_frame hu ht
      exact h.ended.of_same (congrArg (unitGet Dec.reset · n) hdecs) fun k _ => congrArg (unitGet Enc.reset · k) hencs

/-- After `rst` no decoder is live (rule R260). -/
theorem State.hardReset_dec_live (s : State) (n : Nat) : (s.hardReset.dec n).com.live = false := by
  obtain h | ⟨h, -⟩ := unitGet_unitMap (dflt := Dec.reset) (Dec.hardReset s.tick) 0 s.decs n
  · exact congrArg (fun d : Dec => d.com.live) h
  · exact congrArg (fun d : Dec => d.com.live) h

/-- The event's wiring writes a decoder's source and nothing else of it. -/
theorem State.wiring_dec (s : State) (n : Nat) :
    s.wiring.dec n = { s.dec n with src := (s.wiring.dec n).src } := by
  unfold State.wiring
  split
  · rfl
  · next x _ _ =>
    cases x with
    | attachDec m w =>
      by_cases hn : n = m
      · subst hn
        simp [State.rewired]
      · simp [State.rewired, State.setDec_dec_other _ _ hn]
    | command | edge | observe | attachEnc | attachVal => rfl

theorem State.decHead_eq_srcShows (s : State) (n : Nat) :
    s.decHead n = (s.srcShows .dec n).map (s.dec n).com.rev := by
  cases h : s.wireEmpty (s.dec n).src <;> simp [State.decHead, State.head, State.srcShows, h]

/-- An event other than `rst = 1` that is not refused leaves one driver an encoder (rules R76, R272). -/
theorem State.oneDriver_wiring (hc : s.contended = false) (hr : ∀ c rest, s.inbox ≠ .edge true c :: rest) :
    s.wiring.oneDriver = true := by
  rcases hs : s.inbox with _ | ⟨x, rest⟩
  · simpa [State.contended, State.wiring, hs] using hc
  · cases x with
    | edge rst c =>
      cases rst with
      | true => exact absurd hs (hr c rest)
      | false => simp_all [State.contended, State.wiring, State.rewired]
    | command | observe | attachEnc | attachDec | attachVal => simp_all [State.contended, State.wiring, State.rewired]

/-- The wiring of conforming sources leaves an ended decoder ended: its port shows what it showed (rule R62 (a), (b)). -/
theorem State.Conforming.decEnded_wiring (hs : s.Conforming)
    (h : s.DecStopped n) : s.wiring.DecEnded n := by
  intro tick
  have hcom : (s.wiring.dec n).com = (s.dec n).com := by rw [s.wiring_dec]
  cases hl : (s.dec n).com.live
  · exact .inl (hcom ▸ hl)
  · refine .inr ?_
    have hshows : ({ s.wiring with tick := tick } : State).srcShows .dec n = s.srcShows .dec n := by
      cases hb : s.srcShows .dec n with
      | none => exact hs.permanent .dec n tick hl hb
      | some b => exact hs.steady .dec n tick b hl hb
    have hhead : ({ s.wiring with tick := tick } : State).decHead n = s.decHead n := by
      rw [State.decHead_eq_srcShows, State.decHead_eq_srcShows, hshows]
      exact congrArg (fun c : Common => (s.srcShows .dec n).map c.rev) hcom
    rw [hhead]
    exact h.resolve_left (by simp [hl])

theorem State.Conforming.decClosed_wiring (hs : s.Conforming) (hb : (s.dec n).needPrime = false)
    (h : s.DecStopped n)
    (hr : ∀ c rest, s.inbox ≠ .edge true c :: rest) : s.wiring.DecClosed n :=
  ⟨hs.decEnded_wiring h, by rw [s.wiring_dec, hb], fun p k hp hk =>
    (s.wiring.oneDriver_iff.1 (State.oneDriver_wiring hs.exclusive.1 hr)) k p (.dec, n) hp hk⟩

/-- The consumer's command on an encoder, but `NOP`, is not on the one behind a live decoder (rule R62 (c)). -/
theorem State.Conforming.not_feeder (hs : s.Conforming) {c : Command} {rest : List Input}
    (hin : s.inbox = .command c :: rest ∨ s.inbox = .edge false c :: rest) (hu : (decode c.unit c.ctl).unit = .enc)
    (hi : decode c.unit c.ctl ≠ .encNop) (hl : (s.dec n).com.live = true) : (s.dec n).src ≠ .encoder c.num := by
  rw [decode_unit] at hu
  have hctl : c.ctl ≠ 0#3 := fun e => hi (by rw [hu, e]; rfl)
  intro hk
  have hfeeds := (s.feedsLive_iff c.num).2 ⟨(.dec, n), hk, hl⟩
  rw [hs.exclusive.2 c rest hin hu hctl] at hfeeds
  cases hfeeds

/-- The command pending, performed after the rest of the edge. -/
theorem State.Conforming.decEnded_command (hs : s.Conforming) {c : Command} {rest : List Input}
    (hin : s.inbox = .command c :: rest ∨ s.inbox = .edge false c :: rest) (hw : s.DecClosed n)
    (hn : ¬Constructing s .dec n)
    (ht : exec (decode c.unit c.ctl) ((s.present c rest).settle c.drivenDec) = .next t ∨
      edge (decode c.unit c.ctl) ((s.present c rest).settle c.drivenDec) = .next t) : t.DecEnded n := by
  obtain ⟨-, -, -, hport, -, -, -, -, hdec⟩ := (s.present c rest).settle_other c.drivenDec
  have hsame : ((s.present c rest).settle c.drivenDec).dec n = s.dec n := (hdec n).2.2 hw.idle
  refine ((hw.congr (t := s.present c rest) rfl rfl rfl).settle c.drivenDec).exec ?_ (fun hu hi hl => ?_) ht
  · rintro ⟨hc, hu, hp⟩
    exact hn ⟨c, rest, hin, (decode_unit _ _).symm.trans hu, hport.symm.trans hp, hc⟩
  · rw [hsame] at hl ⊢
    rw [hport]
    exact hs.not_feeder hin hu hi hl

theorem State.Conforming.decEnded_cycle (hs : s.Conforming) (hb : (s.dec n).needPrime = false)
    (h : s.DecStopped n) (hn : ¬Constructing s .dec n)
    (ht : s.cycle = .next t) : t.DecEnded n := by
  by_cases hr : ∃ c rest, s.inbox = .edge true c :: rest
  · obtain ⟨c, rest, hr⟩ := hr
    simp only [State.cycle, hr] at ht
    cases ht
    exact fun _ => .inl (State.hardReset_dec_live _ n)
  · push Not at hr
    have hw := hs.decClosed_wiring hb h hr
    rcases hin : s.inbox with _ | ⟨x, rest⟩
    · simp only [State.wiring, State.cycle, hin] at hw ht
      cases ht
      exact hw.ended_settle (by rfl) (by rfl) (by rfl)
    simp only [State.wiring, hin] at hw
    cases x with
    | command c =>
      simp only [State.cycle, hin] at ht
      exact hs.decEnded_command (.inl hin) hw hn (.inl ht)
    | edge rst c =>
      cases rst with
      | true => exact absurd hin (hr c rest)
      | false =>
        simp only [State.cycle, hin] at ht
        exact hs.decEnded_command (.inr hin) hw hn (.inr ht)
    | observe | attachEnc | attachDec | attachVal =>
      simp only [State.cycle, hin] at ht
      cases ht
      exact hw.ended_settle (by rfl) (by rfl) (by rfl)

/-- Settles O28: an ended decoder's own commands leave its head alone, and nothing else reaches it in a conforming step. -/
theorem decoderEmpty : Obligations.DecoderEmpty := by
  refine ⟨fun s n hf hb => ⟨fun hl => ?_, fun hl => ?_⟩, fun i s t hi hc hb ht h => ?_, fun s t n hs ht hn hb h => ?_⟩
  · rw [State.answer, (State.decEmpty_iff hb hf).2 (.inl hl)]
  · rw [State.answer, Ret.bit.injEq, Bool.eq_iff_iff, State.decEmpty_iff hb hf]
    simp [State.DecStopped, hl]
  · obtain ⟨hlive, hsrc, hencs, hrev, htick⟩ := kept_of_exec_of_decEnded (exec_of_decEnded hi hc hb h (.inl ht))
    exact ⟨hlive, hsrc, hencs,
      State.decHead_congr hsrc hrev (fun k _ => congrArg (unitGet Enc.reset · k) hencs) htick⟩
  · obtain ⟨-, hstep⟩ | ⟨-, hstep⟩ := step_cases s <;> rw [hstep] at ht
    · cases ht
    · exact hs.decEnded_cycle hb h hn ht t.tick

end Sys2Proof.Machine
end

section
/-! The validator's commands (rules R202, R204, R206, R210), and its verdict over a finite stream (rule R200). Both the run's
verdict and the four conditions of rule R200 say of the classes of the candidates: data, then at most two padding, of a length
that is a multiple of 4. -/

namespace Sys2Proof.Machine

open Sys2Proof.Claims

variable {s : State} {n : Nat} {c : Common} {t : List Byte}

/-! ### The verdict (rule R206) -/

theorem Val.ok_iff (v : Val) : v.ok = true ↔
    v.com.live = true ∧ v.com.fault = .none ∧ v.bad = false ∧ v.npad ≤ 2 ∧ v.cnt = 0 := by
  simp [Val.ok, and_assoc]

/-- Settles O40: the pin is `Val.ok`. -/
theorem validatorVerdict : Obligations.ValidatorVerdict := by
  intro s n
  rw [State.answer, State.valOk, Ret.bit.injEq, Bool.eq_iff_iff, Val.ok_iff, decide_eq_true_iff]

/-! ### Construction (rule R202) -/

/-- A construction that fails the check (rule R123). -/
theorem exec_valConstruct_not_accepted (rd adv : Bool) (h : accepted s = false) :
    exec (.valConstruct rd adv) s = .next
      ((s.setVal s.port ⟨(s.val s.port).com.build s.cfg s.tick .val s.port, 0, 0, false, (s.val s.port).src⟩).withRet
        (.raised .config)) := by
  rw [exec, execValConstruct, outcome_not_accepted h]
  rfl

/-- Settles O39: the common registers are built or left unbuilt, and the counters start afresh. -/
theorem validatorConstruction : Obligations.ValidatorConstruction :=
  fun s rd adv => ⟨exec_valConstruct_accepted rd adv, fun h =>
    ⟨_, Common.build_not_accepted (s.val s.port).com s.tick .val s.port h, exec_valConstruct_not_accepted rd adv h⟩⟩

/-! ### The rows of the transition table (rule R210) -/

theorem exec_valStep_faulted (rd : Bool) (hf : (s.val s.port).com.fault ≠ .none) :
    exec (.valStep rd) s = .next { s with ret := .ignored } := by
  obtain ⟨-, e⟩ | ⟨hf', -⟩ := execValStep_cases s
  · exact e
  · exact absurd hf' hf

/-- `STEP` with nothing to consume (rule R227). -/
theorem exec_valStep_premature (rd : Bool) (hf : (s.val s.port).com.fault = .none)
    (h : (s.val s.port).com.live = false ∨ s.head (s.val s.port).com (s.val s.port).src = none) :
    exec (.valStep rd) s = .next (valFaulted s .premature) := by
  obtain ⟨hf', -⟩ | ⟨-, ⟨-, e⟩ | ⟨hl, cls, hc, -⟩⟩ := execValStep_cases s
  · exact absurd hf hf'
  · rw [exec, e, s.raise_val _ _ hf]
    rfl
  · simp [hl, hc] at h

/-- A row of the table, from the values it gives `npad` and `bad`. -/
theorem exec_valStep_row (rd : Bool) {cls : SymClass} {npad : Fin 4} {bad : Bool}
    (hl : (s.val s.port).com.live = true) (hf : (s.val s.port).com.fault = .none)
    (h : s.head (s.val s.port).com (s.val s.port).src = some cls) (hnpad : npadNext cls (s.val s.port).npad = npad)
    (hbad : badNext cls (s.val s.port).npad (s.val s.port).bad = bad) :
    exec (.valStep rd) s = .next { (s.wirePop (s.val s.port).src).setVal s.port { s.val s.port with
      cnt := (s.val s.port).cnt + 1, npad := npad, bad := bad, src := (s.val s.port).src.popped } with ret := .done } := by
  subst hnpad hbad
  exact exec_valStep_head rd hl hf h

/-- Settles O38: outside the rows `STEP` is ignored or `PREMATURE`; in a row `npadNext` and `badNext` give the values. -/
theorem validatorTransitionTable : Obligations.ValidatorTransitionTable := by
  refine ⟨fun s rd => exec_valStep_faulted rd, fun s rd hf hl => exec_valStep_premature rd hf (.inl hl),
    fun s rd hl hf => ⟨fun h => exec_valStep_premature rd hf (.inr h), fun i h hp => ?_, fun i h hp => ?_, fun h hp => ?_,
      fun h hp => ?_, fun h hp => ?_, fun h hp => ?_, fun h => exec_valStep_row rd hl hf h rfl rfl⟩⟩
  · exact exec_valStep_row rd hl hf h hp (by simp [badNext, hp])
  · exact exec_valStep_row rd hl hf h rfl (by simp [badNext, Fin.pos_iff_ne_zero, hp])
  all_goals exact exec_valStep_row rd hl hf h (by rw [hp]; rfl) rfl

/-! ### The run over data and padding -/

theorem foldl_stepped_com (cs : List SymClass) (v : Val) : (cs.foldl Val.stepped v).com = v.com := by
  induction cs generalizing v with
  | nil => rfl
  | cons x cs ih => exact ih (v.stepped x)

/-- Data before any padding leaves both counters of the verdict alone. -/
theorem foldl_stepped_data (l : List Idx) {v : Val} (hp : v.npad = 0) :
    ((l.map .data).foldl Val.stepped v).bad = v.bad ∧ ((l.map .data).foldl Val.stepped v).npad = 0 := by
  induction l generalizing v with
  | nil => exact ⟨rfl, hp⟩
  | cons i l ih =>
    have hbad : (v.stepped (.data i)).bad = v.bad := by simp [Val.stepped, badNext, hp]
    rw [List.map_cons, List.foldl_cons, ← hbad]
    exact ih (v := v.stepped (.data i)) hp

/-- Padding is counted, up to the saturation at 3. -/
theorem foldl_stepped_pad {k : Nat} {v : Val} (hk : v.npad.val + k ≤ 3) :
    ((List.replicate k .pad).foldl Val.stepped v).bad = v.bad ∧
      ((List.replicate k .pad).foldl Val.stepped v).npad.val = v.npad.val + k := by
  induction k generalizing v with
  | zero => exact ⟨rfl, rfl⟩
  | succ k ih =>
    have hstep : (v.stepped .pad).npad.val = v.npad.val + 1 := by
      have h3 : v.npad ≠ 3 := by omega
      simp only [Val.stepped, npadNext, if_neg h3]
      omega
    obtain ⟨hbad, hpad⟩ := ih (v := v.stepped .pad) (by omega)
    rw [List.replicate_succ, List.foldl_cons]
    exact ⟨hbad, by omega⟩

/-- From counters at 0 data and at most two padding symbols, a multiple of 4 in all, leave the verdict 1. -/
theorem ok_foldl_stepped {l : List Idx} {k : Nat} {v : Val} (hl : v.com.live = true) (hf : v.com.fault = .none)
    (hbad : v.bad = false) (hnpad : v.npad = 0) (hcnt : v.cnt = 0) (hk : k ≤ 2) (hmod : (l.length + k) % 4 = 0) :
    ((l.map SymClass.data ++ List.replicate k SymClass.pad).foldl Val.stepped v).ok = true := by
  obtain ⟨hbad_data, hnpad_data⟩ := foldl_stepped_data l hnpad
  obtain ⟨hbad_pad, hnpad_pad⟩ := foldl_stepped_pad (k := k) (v := (l.map .data).foldl Val.stepped v)
    (by simp [hnpad_data]; omega)
  have hcnt_all := foldl_stepped_cnt (l.map SymClass.data ++ List.replicate k SymClass.pad) v
  rw [Val.ok_iff, foldl_stepped_com]
  refine ⟨hl, hf, ?_, ?_, Fin.ext (by simpa [hcnt, hmod] using hcnt_all)⟩
  · rw [List.foldl_append, hbad_pad, hbad_data, hbad]
  · rw [List.foldl_append, Fin.le_def, hnpad_pad, hnpad_data]
    simpa using hk

/-- The converse of `classes_of_isValid`. -/
theorem isValid_of_classes {l : List Idx} {k : Nat} (h : accepted s = true) (hmod : t.length % 4 = 0)
    (hc : t.map (built s).rev = l.map .data ++ List.replicate k .pad) (hk : k ≤ 2) : s.isValid n t = true := by
  have hlen : t.length = l.length + k := by simpa using congrArg List.length hc
  rw [isValid_eq_ok h, hc]
  exact ok_foldl_stepped rfl rfl rfl rfl rfl hk (hlen ▸ hmod)

/-! ### The conditions of rule R200 on the classes -/

/-- No invalid class, and nothing but padding after padding: data and then padding. -/
theorem classes_iff (cs : List SymClass) :
    ((∀ x ∈ cs, x ≠ .invalid) ∧ cs.Pairwise fun x y => x = .pad → y = .pad) ↔
      ∃ (l : List Idx) (k : Nat), cs = l.map .data ++ List.replicate k .pad := by
  constructor
  · rintro ⟨hinv, hpair⟩
    induction cs with
    | nil => exact ⟨[], 0, rfl⟩
    | cons x cs ih =>
      obtain ⟨hx, hcs⟩ := List.forall_mem_cons.1 hinv
      obtain ⟨hafter, hrest⟩ := List.pairwise_cons.1 hpair
      cases x with
      | data i =>
        obtain ⟨l, k, rfl⟩ := ih hcs hrest
        exact ⟨i :: l, k, rfl⟩
      | pad => exact ⟨[], cs.length + 1, congrArg (.pad :: ·) (List.eq_replicate_of_mem fun y hy => hafter y hy rfl)⟩
      | invalid => exact absurd rfl hx
  · rintro ⟨l, k, rfl⟩
    refine ⟨fun x hx => ?_, ?_⟩
    · obtain hx | hx := List.mem_append.1 hx
      · obtain ⟨i, -, rfl⟩ := List.mem_map.1 hx
        nofun
      · simp [List.eq_of_mem_replicate hx]
    · simp [List.pairwise_append, List.pairwise_map, List.pairwise_of_forall]

/-- Rule R200 as a shape of the sequence of classes. -/
theorem wellFormedSymbols_iff : WellFormedSymbols c t ↔
    t.length % 4 = 0 ∧ ∃ (l : List Idx) (k : Nat), t.map c.rev = l.map .data ++ List.replicate k .pad ∧ k ≤ 2 := by
  have hpair : (∀ i j : Nat, i < j → ∀ (hj : j < t.length) (hi : i < t.length), c.rev t[i] = .pad → c.rev t[j] = .pad) ↔
      (t.map c.rev).Pairwise fun x y => x = .pad → y = .pad := by
    rw [List.pairwise_map, List.pairwise_iff_getElem]
    exact ⟨fun h i j hi hj hij => h i j hij hj hi, fun h i j hij hj hi => h i j hi hj hij⟩
  rw [WellFormedSymbols, hpair, ← List.forall_mem_map (P := fun x : SymClass => x ≠ .invalid), ← and_assoc, classes_iff]
  constructor
  · rintro ⟨⟨l, k, hc⟩, hcount, hmod⟩
    exact ⟨hmod, l, k, hc, countP_pad_eq hc ▸ hcount⟩
  · rintro ⟨hmod, l, k, hc, hk⟩
    exact ⟨⟨l, k, hc⟩, countP_pad_eq hc ▸ hk, hmod⟩

/-- Settles O41: the verdict and rule R200 ask the same shape of the classes. -/
theorem validatorDecidesWellFormedness : Obligations.ValidatorDecidesWellFormedness := by
  intro s n t h
  rw [wellFormedSymbols_iff]
  exact ⟨classes_of_isValid h, fun ⟨hmod, _, _, hc, hk⟩ => isValid_of_classes h hmod hc hk⟩

end Sys2Proof.Machine
end

section
/-! What a command does to the common registers of every unit, at both levels (rules R224, R228). A source is popped only
where it shows an item, so a chained encoder that is popped completes an `ADVANCE` and raises nothing; what is left is a fault
raised on the driven unit, and the construction of it. -/

namespace Sys2Proof.Machine

open Sys2Proof.Claims

/-- From `s` to `t` the common registers of every unit are kept. -/
def State.SameCommon (s t : State) : Prop := ∀ u n, t.common u n = s.common u n

variable {s t v : State} {i : Instr} {u : UnitKind} {n m : Nat}

/-! ### Setting a unit -/

theorem State.SameCommon.refl (s : State) : s.SameCommon s := fun _ _ => rfl

theorem State.SameCommon.trans (h : s.SameCommon t) (h' : t.SameCommon v) : s.SameCommon v :=
  fun u n => (h' u n).trans (h u n)

@[simp] theorem State.withRet_common (r : Ret) : (s.withRet r).common u n = s.common u n := rfl

theorem State.SameCommon.withRet (h : s.SameCommon t) (r : Ret) : s.SameCommon (t.withRet r) := h

theorem State.setEnc_common {e : Enc} (h : u = .enc → n = m → e.com = (s.enc m).com) :
    (s.setEnc m e).common u n = s.common u n := by
  cases u with
  | enc =>
    by_cases hn : n = m
    · subst hn
      simpa using h rfl rfl
    · simp [State.setEnc_enc_other _ _ hn]
  | dec | val | tbl => rfl

theorem State.setDec_common {d : Dec} (h : u = .dec → n = m → d.com = (s.dec m).com) :
    (s.setDec m d).common u n = s.common u n := by
  cases u with
  | dec =>
    by_cases hn : n = m
    · subst hn
      simpa using h rfl rfl
    · simp [State.setDec_dec_other _ _ hn]
  | enc | val | tbl => rfl

theorem State.setVal_common {x : Val} (h : u = .val → n = m → x.com = (s.val m).com) :
    (s.setVal m x).common u n = s.common u n := by
  cases u with
  | val =>
    by_cases hn : n = m
    · subst hn
      simpa using h rfl rfl
    · simp [State.setVal_val_other _ _ hn]
  | enc | dec | tbl => rfl

theorem State.setTbl_common {x : Tbl} (h : u = .tbl → n = m → x.com = (s.tbl m).com) :
    (s.setTbl m x).common u n = s.common u n := by
  cases u with
  | tbl =>
    by_cases hn : n = m
    · subst hn
      simpa using h rfl rfl
    · simp [State.setTbl_tbl_other _ _ hn]
  | enc | dec | val => rfl

theorem State.setCommon_common {u' : UnitKind} {c : Common} (h : u = u' → n = m → c = s.common u' m) :
    (s.setCommon u' m c).common u n = s.common u n := by
  cases u' with
  | enc => exact State.setEnc_common h
  | dec => exact State.setDec_common h
  | val => exact State.setVal_common h
  | tbl => exact State.setTbl_common h

/-! ### Moving a symbol -/

/-- A pop at a port that shows an item raises nothing behind it (rules R148, R279). -/
theorem State.sameCommon_wirePop {c : Common} {w : Wire} {cls : SymClass} (h : s.head c w = some cls) :
    s.SameCommon (s.wirePop w) := by
  cases w with
  | stream src => exact .refl s
  | encoder k =>
    have hempty : s.encEmpty k = false := by
      rw [← Bool.not_eq_true]
      intro he
      cases h.symm.trans ((s.head_eq_none_iff c (.encoder k)).2 he)
    rw [State.wirePop_encoder]
    obtain ⟨-, e⟩ | ⟨hf, hm, -⟩ | ⟨-, -, e⟩ := s.wireAdvance_cases k
    · rw [e]
      exact .refl s
    · rw [State.encEmpty_eq_noMore hf, hm] at hempty
      cases hempty
    · rw [e]
      exact fun _ _ => State.setEnc_common fun _ _ => Enc.advanced_com _

/-- Writing a decoder's other registers. -/
theorem State.sameCommon_setDec {d : Dec} (h : d.com = (s.dec n).com) : s.SameCommon (s.setDec n d) :=
  fun _ _ => State.setDec_common fun _ _ => h

theorem State.sameCommon_decTake {c : Idx} (h : s.decHead n = some (.data c)) : s.SameCommon (s.decTake n c) :=
  (sameCommon_wirePop h).trans (sameCommon_setDec (by simp))

theorem State.sameCommon_prime (s : State) (n : Nat) : s.SameCommon (s.prime n) := by
  obtain ⟨c, hc, e⟩ | ⟨-, e⟩ := s.prime_cases n <;> rw [e]
  · exact sameCommon_decTake hc
  · exact .refl s

theorem State.sameCommon_primeEdge (s : State) (n : Nat) : s.SameCommon (s.primeEdge n) :=
  (s.sameCommon_prime n).trans (sameCommon_setDec rfl)

theorem State.sameCommon_settle (s : State) (driven : Option Nat) : s.SameCommon (s.settle driven) :=
  s.settle_keeps driven (P := s.SameCommon) (fun t m _ _ h => h.trans (t.sameCommon_primeEdge m)) (.refl s)

theorem State.sameCommon_owePrime (s : State) (n : Nat) (pinLevel : Bool) : s.SameCommon (s.owePrime n pinLevel) := by
  cases pinLevel
  · exact s.nextEdge.sameCommon_prime n
  · exact sameCommon_setDec rfl

theorem State.sameCommon_decAdvanced {c : Idx} (h : s.decHead n = some (.data c)) (pinLevel : Bool) :
    s.SameCommon (s.decAdvanced n c pinLevel) := by
  have taken := sameCommon_decTake h
  obtain ⟨-, e⟩ | ⟨-, e⟩ := s.decAdvanced_cases n c pinLevel <;> rw [e]
  · exact taken.trans (sameCommon_setDec (by rfl))
  · exact (taken.trans (sameCommon_setDec (by rfl))).trans (sameCommon_owePrime _ n pinLevel)

/-! ### A command that is no construction -/

/-- From `s` to `t` the common registers of every unit are kept, or `t` is a fault raised on unit `n` of type `u`. -/
def State.KeptOrRaised (u : UnitKind) (n : Nat) (s t : State) : Prop := s.SameCommon t ∨ ∃ c, t = s.raise u n c

/-- A strobed operation of an encoder, if its completion keeps the registers. -/
theorem State.encStrobe_keptOrRaised {k : Enc → State} (hk : s.SameCommon (k (s.enc s.port))) :
    s.KeptOrRaised .enc s.port (s.encStrobe k) := by
  obtain ⟨-, e⟩ | ⟨-, -, e⟩ | ⟨-, -, e⟩ := s.encStrobe_cases k <;> rw [e]
  · exact .inl ((SameCommon.refl s).withRet _)
  · exact .inr ⟨_, rfl⟩
  · exact .inl hk

theorem State.sameCommon_encAdvanced (s : State) : s.SameCommon (s.setEnc s.port (s.enc s.port).advanced) :=
  fun _ _ => State.setEnc_common fun _ _ => Enc.advanced_com _

/-- A strobed operation of a decoder, if its completion keeps the registers. -/
theorem State.decStrobe_keptOrRaised {rd : Bool} {k : Dec → Idx → State}
    (hk : ∀ c, s.decHead s.port = some (.data c) → s.SameCommon (k (s.dec s.port) c)) :
    s.KeptOrRaised .dec s.port (s.decStrobe rd k) := by
  obtain ⟨-, e⟩ | ⟨-, ⟨-, e⟩ | ⟨-, ⟨-, e⟩ | ⟨-, ⟨-, e⟩ | ⟨-, e⟩ | ⟨c, hc, e⟩⟩⟩⟩ := s.decStrobe_cases rd k <;> rw [e]
  · have primed := s.sameCommon_primeEdge s.port
    cases rd
    · exact .inl primed
    · exact .inl (primed.withRet _)
  · exact .inl ((SameCommon.refl s).withRet _)
  · exact .inr ⟨_, rfl⟩
  · exact .inr ⟨_, rfl⟩
  · exact .inr ⟨_, rfl⟩
  · exact .inl (hk c hc)

/-- An operation that constructs nothing keeps the common registers, or raises a fault on the driven unit. -/
theorem exec_keptOrRaised (hi : constructs i = false) (ht : exec i s = .next t) : s.KeptOrRaised i.unit s.port t := by
  cases i with
  | encConstruct | decConstruct | valConstruct | tblBuild => cases hi
  | encNop | valNop | tblNop =>
    cases ht
    exact .inl ((State.SameCommon.refl s).withRet _)
  | decNop =>
    cases ht
    split
    · exact .inl (s.sameCommon_primeEdge s.port)
    · exact .inl ((State.SameCommon.refl s).withRet _)
  | encFront =>
    cases ht
    exact State.encStrobe_keptOrRaised ((State.SameCommon.refl s).withRet _)
  | encAdvance | encPop =>
    cases ht
    exact State.encStrobe_keptOrRaised (s.sameCommon_encAdvanced.withRet _)
  | decFront =>
    cases ht
    exact State.decStrobe_keptOrRaised fun _ _ => (State.SameCommon.refl s).withRet _
  | decAdvance | decPop =>
    cases ht
    exact State.decStrobe_keptOrRaised fun _ hc => (State.sameCommon_decAdvanced hc false).withRet _
  | valStep =>
    obtain ⟨-, e⟩ | ⟨-, ⟨-, e⟩ | ⟨-, cls, hc, e⟩⟩ := execValStep_cases s <;> cases e.symm.trans ht
    · exact .inl ((State.SameCommon.refl s).withRet _)
    · exact .inr ⟨_, rfl⟩
    · have stepped : (s.wirePop (s.val s.port).src).SameCommon
          ((s.wirePop (s.val s.port).src).setVal s.port ((s.val s.port).stepped cls)) :=
        fun _ _ => State.setVal_common fun _ _ => by simp [Val.stepped]
      exact .inl (((State.sameCommon_wirePop hc).trans stepped).withRet _)

/-- And so does a clock edge. -/
theorem edge_keptOrRaised (hi : constructs i = false) (ht : edge i s = .next t) : s.KeptOrRaised i.unit s.port t := by
  cases i with
  | decAdvance | decPop =>
    cases ht
    exact State.decStrobe_keptOrRaised fun _ hc => (State.sameCommon_decAdvanced hc true).withRet _
  | decConstruct => cases hi
  | _ => exact exec_keptOrRaised hi ht

/-! ### A construction -/

theorem State.decConstruct_common_other (pinLevel : Bool) (h : ¬(u = .dec ∧ n = s.port)) :
    (s.decConstruct pinLevel).common u n = s.common u n := by
  have written (d : Dec) : (s.setDec s.port d).common u n = s.common u n :=
    State.setDec_common fun hu hn => absurd ⟨hu, hn⟩ h
  unfold State.decConstruct
  dsimp only
  split
  · exact s.sameCommon_primeEdge s.port u n
  · split
    · exact (State.sameCommon_owePrime _ s.port pinLevel u n).trans (written _)
    · exact written _

/-- A construction writes no common registers but those of the unit it constructs. -/
theorem exec_construction_common_other (hi : constructs i = true) (ht : exec i s = .next t)
    (h : ¬(u = i.unit ∧ n = s.port)) : t.common u n = s.common u n := by
  cases i <;> cases hi <;> cases ht
  case encConstruct =>
    rw [State.withRet_common]
    exact State.setEnc_common fun hu hn => absurd ⟨hu, hn⟩ h
  case decConstruct => exact s.decConstruct_common_other false h
  case valConstruct =>
    rw [State.withRet_common]
    exact State.setVal_common fun hu hn => absurd ⟨hu, hn⟩ h
  case tblBuild =>
    rw [State.withRet_common]
    exact State.setTbl_common fun hu hn => absurd ⟨hu, hn⟩ h

/-- Nor does a clock edge with a construction on it. -/
theorem edge_construction_common_other (hi : constructs i = true) (ht : edge i s = .next t)
    (h : ¬(u = i.unit ∧ n = s.port)) : t.common u n = s.common u n := by
  cases i with
  | decConstruct =>
    cases ht
    exact s.decConstruct_common_other true h
  | decAdvance | decPop => cases hi
  | _ => exact exec_construction_common_other hi ht h

/-! ### The first fault is kept (rule R224) -/

theorem Common.raise_of_faulted {c : Common} (h : c.fault ≠ .none) (code : FaultCode) : c.raise code = c := by
  rw [Common.raise, FaultCode.latch_kept h]

theorem Common.raise_of_unfaulted {c : Common} (h : c.fault = .none) (code : FaultCode) :
    c.raise code = { c with fault := code } := by
  rw [Common.raise, h, FaultCode.latch_none]

/-- A fault raised, on whichever unit, leaves a faulted unit's common registers alone. -/
theorem State.raise_common_of_faulted (h : (s.common u n).fault ≠ .none) (u' : UnitKind) (m : Nat) (code : FaultCode) :
    (s.raise u' m code).common u n = s.common u n := by
  rw [State.raise, State.withRet_common]
  refine State.setCommon_common fun hu hn => ?_
  subst hu hn
  exact Common.raise_of_faulted h code

theorem State.KeptOrRaised.common_of_faulted {u' : UnitKind} (h : s.KeptOrRaised u' m t)
    (hf : (s.common u n).fault ≠ .none) : t.common u n = s.common u n := by
  obtain h | ⟨c, rfl⟩ := h
  · exact h u n
  · exact State.raise_common_of_faulted hf _ _ c

/-- A step with nothing pending keeps every unit's common registers, though busy decoders prime at it. -/
theorem step_idle_sameCommon (hs : s.inbox = []) (ht : step s = .next t) : s.SameCommon t := by
  obtain ⟨-, e⟩ | ⟨-, e⟩ := step_cases s <;> rw [e] at ht
  · cases ht
  · simp only [State.cycle, hs] at ht
    cases ht
    exact (s.await []).sameCommon_settle none

/-- Settles O48: `raise` keeps a fault that is set, and beside it only the construction of a unit writes its `fault`. -/
theorem firstFaultIsKept : Obligations.FirstFaultIsKept := by
  refine ⟨fun c code h => Common.raise_of_faulted h code, fun c code h => Common.raise_of_unfaulted h code,
    fun i s t u n ht hf hn => congrArg Common.fault ?_, fun s t u n hs ht => congrArg Common.fault
      (step_idle_sameCommon hs ht u n)⟩
  cases hi : constructs i
  · exact (ht.elim (exec_keptOrRaised hi) (edge_keptOrRaised hi)).common_of_faulted hf
  · have other : ¬(u = i.unit ∧ n = s.port) := fun h => hn ⟨hi, h.1.symm, h.2.symm⟩
    exact ht.elim (exec_construction_common_other hi · other) (edge_construction_common_other hi · other)

end Sys2Proof.Machine
end

section
/-! Which command raises which fault (rules R221, R225), and what a faulted unit does with a command (rule R229). `Raises` is
the table of rule R221 with its causes; a command of a unit that hears it raises exactly what the table says. -/

namespace Sys2Proof.Machine

open Sys2Proof.Claims

variable {s t : State} {i : Instr} {c : FaultCode}

/-! ### The kinds of command -/

/-- The command is `NOP`. -/
def idles (i : Instr) : Prop :=
  i = .encNop ∨ i = .decNop ∨ (∃ rd, i = .valNop rd) ∨ ∃ rd adv, i = .tblNop rd adv

/-- The command is one that may raise `PREMATURE` (rule R225). -/
def strobed (i : Instr) : Prop := encStrobed i ∨ decStrobed i ∨ valStepped i

/-- Every command is a construction, `NOP` or strobed (rule R95). -/
theorem command_cases (i : Instr) : constructs i = true ∨ idles i ∨ strobed i := by
  cases i <;> simp [constructs, idles, strobed, encStrobed, decStrobed, valStepped]

theorem not_strobed_of_idles (hi : idles i) : ¬strobed i := by
  obtain rfl | rfl | ⟨rd, rfl⟩ | ⟨rd, adv, rfl⟩ := hi <;> simp [strobed, encStrobed, decStrobed, valStepped]

theorem unit_of_encStrobed (hi : encStrobed i) : i.unit = .enc := by
  obtain rfl | rfl | rfl := hi <;> rfl

theorem unit_of_decStrobed (hi : decStrobed i) : i.unit = .dec := by
  obtain rfl | rfl | rfl := hi <;> rfl

theorem unit_of_valStepped (hi : valStepped i) : i.unit = .val := by
  obtain ⟨rd, rfl⟩ := hi
  rfl

/-- A decoder that hears a command is not busy (rule R111). -/
theorem needPrime_of_heard (hu : ¬Unheard s i) (hi : i.unit = .dec) : (s.dec s.port).needPrime = false := by
  simpa [Unheard, hi] using hu

theorem exec_idles (hi : idles i) (hu : ¬Unheard s i) : exec i s = .next { s with ret := .done } := by
  obtain ⟨-, -, henc, hdec, hval, htbl⟩ := nopChangesNothing
  obtain rfl | rfl | ⟨rd, rfl⟩ | ⟨rd, adv, rfl⟩ := hi
  · exact henc s
  · exact hdec s (needPrime_of_heard hu rfl)
  · exact hval s rd
  · exact htbl s rd adv

/-! ### Completing raises nothing -/

theorem not_raised_of_encRow {x : Sym} {e : Enc} (h : EncRow s x e) (hi : encStrobed i) (ht : exec i s = .next t) :
    t.ret ≠ .raised c := by
  obtain ⟨-, -, hfront, hadvance, hpop⟩ := h
  obtain rfl | rfl | rfl := hi
  · cases hfront.symm.trans ht
    nofun
  · cases hadvance.symm.trans ht
    nofun
  · cases hpop.symm.trans ht
    nofun

theorem not_raised_of_decRow {x : Byte} {v : State} (h : DecRow s x v) (hi : decStrobed i) (ht : exec i s = .next t) :
    t.ret ≠ .raised c := by
  obtain ⟨-, -, hfront, hadvance, hpop⟩ := h
  obtain rfl | rfl | rfl := hi
  · cases hfront.symm.trans ht
    nofun
  · cases hadvance.symm.trans ht
    nofun
  · cases hpop.symm.trans ht
    nofun

/-! ### The causes -/

/-- A strobed command of the driven unit has nothing to work on (rules R225, R227). -/
def State.Spent (s : State) : UnitKind → Prop
  | .enc => (s.enc s.port).noMore = true
  | .dec => s.DecStopped s.port
  | .val => (s.val s.port).com.live = false ∨ s.head (s.val s.port).com (s.val s.port).src = none
  | .tbl => False

/-- The command raises the fault: the rows of rule R221. -/
inductive Raises (s : State) (i : Instr) : FaultCode → Prop where
  | config (hi : constructs i = true) (h : accepted s = false) : Raises s i .config
  | malformed (hi : decStrobed i) (hf : (s.dec s.port).com.fault = .none) (hl : (s.dec s.port).com.live = true)
      (h : s.decHead s.port = some .invalid) : Raises s i .malformed
  | premature (hi : strobed i) (hf : (s.common i.unit s.port).fault = .none) (h : s.Spent i.unit) : Raises s i .premature

section Raised

variable (ht : exec i s = .next t)
include ht

theorem raises_of_encStrobed (hi : encStrobed i) (h : t.ret = .raised c) : Raises s i c := by
  by_cases hf : (s.enc s.port).com.fault = .none
  · cases hm : (s.enc s.port).noMore
    · exact absurd h (not_raised_of_encRow (encRow_of_presents hf ⟨hm, rfl, rfl⟩) hi ht)
    · cases (exec_encStrobed_noMore hi hf hm).symm.trans ht
      cases h
      have hunit := unit_of_encStrobed hi
      exact .premature (.inl hi) (by rwa [hunit]) (by rwa [hunit])
  · cases (exec_encStrobed_faulted hi hf).symm.trans ht
    cases h

theorem raises_of_decStrobed (hi : decStrobed i) (hb : (s.dec s.port).needPrime = false) (h : t.ret = .raised c) :
    Raises s i c := by
  by_cases hf : (s.dec s.port).com.fault = .none
  · have stopped (hs : s.DecStopped s.port) : Raises s i .premature := by
      have hunit := unit_of_decStrobed hi
      exact .premature (.inr (.inl hi)) (by rwa [hunit]) (by rwa [hunit])
    cases hl : (s.dec s.port).com.live
    · cases (exec_decStrobed_notLive hb hf hi hl).symm.trans ht
      cases h
      exact stopped (.inl hl)
    · have ended (hd : s.decHead s.port = none ∨ s.decHead s.port = some .pad) : Raises s i c := by
        cases (exec_decStrobed_ended hb hf hi hd).symm.trans ht
        cases h
        exact stopped (.inr hd)
      rcases hd : s.decHead s.port with _ | x | _ | _
      · exact ended (.inl hd)
      · exact absurd h (not_raised_of_decRow (decRow_of_data hb hf hl hd) hi ht)
      · exact ended (.inr hd)
      · cases (exec_decStrobed_invalid hb hf hl hi hd).symm.trans ht
        cases h
        exact .malformed hi hf hl hd
  · cases (exec_decStrobed_faulted hb hi hf).symm.trans ht
    cases h

theorem raises_of_valStepped (hi : valStepped i) (h : t.ret = .raised c) : Raises s i c := by
  obtain ⟨rd, rfl⟩ := hi
  obtain ⟨-, e⟩ | ⟨hf, ⟨hs, e⟩ | ⟨-, cls, -, e⟩⟩ := execValStep_cases s <;> cases e.symm.trans ht <;> cases h
  exact .premature (.inr (.inr ⟨rd, rfl⟩)) hf hs

/-- A command that is heard raises what the table says. -/
theorem raises_of_exec (hu : ¬Unheard s i) (h : t.ret = .raised c) : Raises s i c := by
  obtain hi | hi | hi | hi | hi := command_cases i
  · have hret := (exec_construction hi hu ht).2.symm.trans h
    cases ha : accepted s
    · rw [outcome_not_accepted ha] at hret
      cases hret
      exact .config hi ha
    · rw [outcome_accepted ha] at hret
      cases hret
  · cases (exec_idles hi hu).symm.trans ht
    cases h
  · exact raises_of_encStrobed ht hi h
  · exact raises_of_decStrobed ht hi (needPrime_of_heard hu (unit_of_decStrobed hi)) h
  · exact raises_of_valStepped ht hi h

theorem ret_of_spent (hi : strobed i) (hu : ¬Unheard s i) (hf : (s.common i.unit s.port).fault = .none)
    (h : s.Spent i.unit) : t.ret = .raised .premature := by
  obtain hi | hi | hi := hi
  · rw [unit_of_encStrobed hi] at hf h
    cases (exec_encStrobed_noMore hi hf h).symm.trans ht
    rfl
  · have hunit := unit_of_decStrobed hi
    have hb := needPrime_of_heard hu hunit
    rw [hunit] at hf h
    obtain hl | hd := h
    · cases (exec_decStrobed_notLive hb hf hi hl).symm.trans ht
      rfl
    · cases (exec_decStrobed_ended hb hf hi hd).symm.trans ht
      rfl
  · obtain ⟨rd, rfl⟩ := hi
    cases (exec_valStep_premature rd hf h).symm.trans ht
    rfl

/-- A command that is heard raises exactly what the table says. -/
theorem ret_eq_raised_iff (hu : ¬Unheard s i) : t.ret = .raised c ↔ Raises s i c := by
  refine ⟨raises_of_exec ht hu, fun h => ?_⟩
  cases h with
  | config hi ha => rw [(exec_construction hi hu ht).2, outcome_not_accepted ha]
  | malformed hi hf hl hd =>
    cases (exec_decStrobed_invalid (needPrime_of_heard hu (unit_of_decStrobed hi)) hf hl hi hd).symm.trans ht
    rfl
  | premature hi hf h => exact ret_of_spent ht hi hu hf h

theorem ret_eq_premature_iff (hi : strobed i) (hu : ¬Unheard s i) (hf : (s.common i.unit s.port).fault = .none) :
    t.ret = .raised .premature ↔ s.Spent i.unit := by
  rw [ret_eq_raised_iff ht hu]
  exact ⟨fun | .premature _ _ h => h, .premature hi hf⟩

end Raised

/-- Settles O45: on an unfaulted unit a strobed command raises `PREMATURE` where the unit is spent. -/
theorem prematureConditions : Obligations.PrematureConditions := by
  refine ⟨fun i s t hi hf ht => ?_, fun i s t hi hf hb ht => ?_, fun i s t hi hf ht => ?_⟩
  · have hunit := unit_of_encStrobed hi
    rw [ret_eq_premature_iff ht (.inl hi) (by simp [Unheard, hunit]) (by rwa [hunit]), hunit]
    exact Enc.noMore_iff _
  · have hunit := unit_of_decStrobed hi
    rw [ret_eq_premature_iff ht (.inr (.inl hi)) (by simp [Unheard, hb]) (by rwa [hunit]), hunit]
    rfl
  · have hunit := unit_of_valStepped hi
    rw [ret_eq_premature_iff ht (.inr (.inr hi)) (by simp [Unheard, hunit]) (by rwa [hunit]), hunit, State.Spent,
      State.head_eq_none_iff]

/-! ### A look raises nothing -/

/-- The state with other pending inputs and another recorded outcome: nothing a prime reads. -/
def State.relabel (s : State) (rest : List Input) (r : Ret) : State := { s with inbox := rest, ret := r }

theorem State.wirePop_relabel (s : State) (rest : List Input) (r : Ret) (w : Wire) :
    (s.relabel rest r).wirePop w = (s.wirePop w).relabel rest r := by
  cases w with
  | stream src => rfl
  | encoder k =>
    simp only [State.wirePop_encoder, State.wireAdvance, apply_ite (State.relabel · rest r)]
    rfl

theorem State.prime_relabel (s : State) (rest : List Input) (r : Ret) (n : Nat) :
    (s.relabel rest r).prime n = (s.prime n).relabel rest r := by
  have hhead : (s.relabel rest r).decHead n = s.decHead n := rfl
  obtain ⟨i, hi, h⟩ | ⟨hn, h⟩ := s.prime_cases n
  · rw [h, State.prime_data _ _ (hhead.trans hi), State.decTake]
    exact congrArg (State.setDec · n _) (s.wirePop_relabel rest r _)
  · rw [h, State.prime_else _ _ (hhead ▸ hn)]

theorem State.primeEdge_relabel (s : State) (rest : List Input) (r : Ret) (n : Nat) :
    (s.relabel rest r).primeEdge n = (s.primeEdge n).relabel rest r := by
  rw [State.primeEdge, s.prime_relabel]
  rfl

theorem State.primeOwed_relabel (s : State) (rest : List Input) (r : Ret) (driven : Option Nat) (l : List Nat) :
    State.primeOwed driven l (s.relabel rest r) = (State.primeOwed driven l s).relabel rest r := by
  induction l generalizing s with
  | nil => rfl
  | cons n l ih =>
    rw [State.primeOwed, State.primeOwed, s.primeEdge_relabel, ← ih, apply_ite (State.relabel · rest r)]
    rfl

theorem State.settle_relabel (s : State) (rest : List Input) (r : Ret) (driven : Option Nat) :
    (s.relabel rest r).settle driven = (s.settle driven).relabel rest r :=
  s.primeOwed_relabel rest r driven _

theorem State.answer_not_raised (s : State) (q : Query) : s.answer q ≠ .raised c := by
  cases q <;> nofun

/-- A step with a look pending is, for every unit, the same clock edge without it (rule R116). -/
theorem step_observe {q : Query} {rest : List Input} (hs : s.inbox = .observe q :: rest)
    (ht : step { s with inbox := [] } = .next t) :
    step s = .next (t.relabel rest ((s.await rest).answer q)) := by
  have hcontended : ({ s with inbox := [] } : State).contended = s.contended := by
    rw [State.contended, State.contended, hs]
    rfl
  rw [step, hcontended] at ht
  rw [step]
  split at ht
  · cases ht
  · next h =>
    cases ht
    rw [if_neg h, State.cycle, hs]
    exact congrArg _ ((s.await []).settle_relabel rest _ none)

/-- Settles O46: a heard command raises what the table of causes says, and no answer to a look is a fault. -/
theorem faultCauses : Obligations.FaultCauses := by
  refine ⟨⟨rfl, rfl, rfl, rfl⟩, fun i s t hu ht => ?_, fun s u q rest hs ht => ?_,
    fun s t hs ht => step_idle_sameCommon hs ht⟩
  · simp only [ne_eq, ret_eq_raised_iff ht hu]
    exact ⟨⟨fun | .config hi ha => ⟨hi, ha⟩, fun ⟨hi, ha⟩ => .config hi ha⟩,
      ⟨fun | .malformed hi hf hl hd => ⟨hi, hf, hl, hd⟩, fun ⟨hi, hf, hl, hd⟩ => .malformed hi hf hl hd⟩,
      fun | .premature hi _ _ => hi, nofun⟩
  · exact ⟨_, step_observe hs ht, fun c => State.answer_not_raised _ q⟩

/-! ### A faulted unit (rule R229) -/

/-- A strobed command that is heard by a faulted unit is ignored. -/
theorem exec_strobed_faulted (hi : strobed i) (hu : ¬Unheard s i)
    (hf : (s.common i.unit s.port).fault ≠ .none) : exec i s = .next { s with ret := .ignored } := by
  obtain hi | hi | hi := hi
  · rw [unit_of_encStrobed hi] at hf
    exact exec_encStrobed_faulted hi hf
  · have hunit := unit_of_decStrobed hi
    rw [hunit] at hf
    exact exec_decStrobed_faulted (needPrime_of_heard hu hunit) hi hf
  · obtain ⟨rd, rfl⟩ := hi
    exact exec_valStep_faulted rd hf

theorem busy_of_heard (hu : ¬Unheard s i) : s.busy i.unit s.port = false := by
  cases hi : i.unit with
  | dec => exact needPrime_of_heard hu hi
  | enc | val | tbl => rfl

theorem State.srcPop_of_faulted {u : UnitKind} {n : Nat} (hb : s.busy u n = false) (hf : (s.common u n).fault ≠ .none)
    (rst : Bool) (w : Ctl) : s.srcPop u n rst w = false := by
  cases rst
  · exact Bool.eq_false_iff.2 fun h => hf (s.live_unfaulted_of_srcPop n w hb h).2
  · rfl

/-- Settles O47: a faulted unit ignores a strobed command, and a `NOP` does nothing to any unit. -/
theorem faultedUnitIgnoresCommands : Obligations.FaultedUnitIgnoresCommands := by
  refine fun i s hc hu hf => ⟨?_, State.srcPop_of_faulted (busy_of_heard hu) hf, fun hi => ?_, rfl, rfl⟩
  · obtain hi | hi | hi := command_cases i
    · simp [hc] at hi
    · exact ⟨.done, .inr rfl, exec_idles hi hu, fun h => absurd h (not_strobed_of_idles hi)⟩
    · exact ⟨.ignored, .inl rfl, exec_strobed_faulted hi hu hf, fun _ => rfl⟩
  · rw [hi] at hf
    rw [State.answer, State.valOk, Ret.bit.injEq, ← Bool.not_eq_true, Val.ok_iff]
    exact fun ⟨_, hnone, _⟩ => hf hnone

end Sys2Proof.Machine
end

section
/-! The clock edge with `rst = 1` (rules R40, R260). Reset runs over the listed units only; that it reaches a unit of every
number rests on an unlisted unit being in its reset state already. What reset does to one unit is a relation between the
unit before and after, one for each type. -/

namespace Sys2Proof.Machine

/-! ### One unit -/

/-- What reset gives the common registers (rule R40); the table registers are unspecified. -/
structure Common.Cleared (c : Common) : Prop where
  live : c.live = false
  fault : c.fault = .none

/-- Reset takes the encoder `e` to `r`: `prev` is unspecified, the source is where it was. -/
structure Enc.ResetsTo (e r : Enc) : Prop where
  com : r.com.Cleared
  pos : r.pos = 0
  pad : r.pad = false
  src : r.src = e.src

/-- Reset takes the decoder `d` to `r`: `prev` is unspecified, the source is where it was. -/
structure Dec.ResetsTo (d r : Dec) : Prop where
  com : r.com.Cleared
  pos : r.pos = 0
  needPrime : r.needPrime = false
  src : r.src = d.src

/-- Reset takes the validator `v` to `r`: the source is where it was. -/
structure Val.ResetsTo (v r : Val) : Prop where
  com : r.com.Cleared
  cnt : r.cnt = 0
  npad : r.npad = 0
  bad : r.bad = false
  src : r.src = v.src

theorem Common.cleared_reset : Common.reset.Cleared := ⟨rfl, rfl⟩

theorem Common.cleared_hardReset (c : Common) (k : Nat) (u : UnitKind) (n : Nat) : (c.hardReset k u n).Cleared :=
  ⟨c.hardReset_live k u n, c.hardReset_fault k u n⟩

theorem Enc.resetsTo_hardReset (k n : Nat) (e : Enc) : e.ResetsTo (e.hardReset k n) :=
  ⟨e.com.cleared_hardReset k .enc n, rfl, rfl, rfl⟩

theorem Dec.resetsTo_hardReset (k n : Nat) (d : Dec) : d.ResetsTo (d.hardReset k n) :=
  ⟨d.com.cleared_hardReset k .dec n, rfl, rfl, rfl⟩

theorem Val.resetsTo_hardReset (k n : Nat) (v : Val) : v.ResetsTo (v.hardReset k n) :=
  ⟨v.com.cleared_hardReset k .val n, rfl, rfl, rfl, rfl⟩

/-! ### The unit of every number -/

/-- A relation that holds from each unit to the changed one, and of an unlisted unit to itself, holds at every number. -/
theorem unitGet_unitMap_rel {α : Type} {dflt : α} {R : α → α → Prop} {f : Nat → α → α} (h0 : R dflt dflt)
    (hf : ∀ k x, R x (f k x)) (k : Nat) (l : List α) (n : Nat) :
    R (unitGet dflt l n) (unitGet dflt (unitMap f k l) n) := by
  obtain h | ⟨h, hd⟩ := unitGet_unitMap (dflt := dflt) f k l n
  · exact h ▸ hf _ _
  · rwa [h, hd]

theorem State.hardReset_enc (s : State) (n : Nat) : (s.enc n).ResetsTo (s.hardReset.enc n) :=
  unitGet_unitMap_rel ⟨Common.cleared_reset, rfl, rfl, rfl⟩ (Enc.resetsTo_hardReset s.tick) 0 s.encs n

theorem State.hardReset_dec (s : State) (n : Nat) : (s.dec n).ResetsTo (s.hardReset.dec n) :=
  unitGet_unitMap_rel ⟨Common.cleared_reset, rfl, rfl, rfl⟩ (Dec.resetsTo_hardReset s.tick) 0 s.decs n

theorem State.hardReset_val (s : State) (n : Nat) : (s.val n).ResetsTo (s.hardReset.val n) :=
  unitGet_unitMap_rel ⟨Common.cleared_reset, rfl, rfl, rfl, rfl⟩ (Val.resetsTo_hardReset s.tick) 0 s.vals n

/-- A table holds the common registers and nothing else. -/
theorem State.hardReset_tbl (s : State) (n : Nat) : (s.hardReset.tbl n).com.Cleared :=
  unitGet_unitMap_rel (R := fun _ r : Tbl => r.com.Cleared) Common.cleared_reset
    (fun k t => t.com.cleared_hardReset s.tick .tbl k) 0 s.tbls n

theorem State.hardReset_common (s : State) (u : UnitKind) (n : Nat) : (s.hardReset.common u n).Cleared := by
  cases u with
  | enc => exact (s.hardReset_enc n).com
  | dec => exact (s.hardReset_dec n).com
  | val => exact (s.hardReset_val n).com
  | tbl => exact s.hardReset_tbl n

/-! ### The edge -/

/-- An edge with `rst = 1` is never refused: it looks at no command, and performs reset (rules R233, R260). -/
theorem step_reset {s : State} {c : Command} {rest : List Input} (hs : s.inbox = .edge true c :: rest) :
    step s = .next (s.present c rest).hardReset := by
  have hc : s.contended = false := by rw [State.contended, hs]
  rw [step, if_neg (by simp [hc]), State.cycle, hs]

/-- Settles O56: the edge performs reset from any state, and reset gives the unit of every number its reset values. -/
theorem hardwareReset : Obligations.HardwareReset := by
  refine fun s c rest hs => ⟨_, step_reset hs, rfl, rfl, fun n => ?_⟩
  have he := (s.present c rest).hardReset_enc n
  have hd := (s.present c rest).hardReset_dec n
  have hv := (s.present c rest).hardReset_val n
  have hc (u : UnitKind) := (s.present c rest).hardReset_common u n
  exact ⟨fun u => ⟨(hc u).live, (hc u).fault⟩, he.pos, he.pad, he.src, hd.pos, hd.needPrime, hd.src,
    hv.cnt, hv.npad, hv.bad, hv.src⟩

end Sys2Proof.Machine
end

section
/-! A chain of an encoder and a decoder (rules R188, R279), and an encoder's output before a validator (rule R211). What a
decoder sees of the encoder its port is wired to obeys the laws of `State.Port`, so the runs over a stream are runs over a
chain. -/

namespace Sys2Proof.Machine

open Sys2Proof.Claims

/-! ### The symbols an encoder emits, counted -/

theorem encodedIndices_length (b : List Byte) : (encodedIndices b).length = (4 * b.length + 2) / 3 := by
  induction b using encodedSymbols.induct with
  | case1 | case2 | case3 => simp [encodedIndices]
  | case4 b0 b1 b2 l ih =>
    simp only [encodedIndices, List.length_append, List.length_cons, List.length_nil, ih]
    omega

/-- Settles O42: the symbols are data and then padding, and the two lengths leave room for two padding symbols at most. -/
theorem encoderOutputIsValid : Obligations.EncoderOutputIsValid := by
  intro s n m b h
  obtain ⟨k, hk⟩ := rev_encodedSymbols (cfgOk_built h) b
  have hlen := congrArg List.length hk
  simp only [List.length_map, List.length_append, List.length_replicate, encodedSymbols_length,
    encodedIndices_length] at hlen
  rw [(encDrain_encOver b h).1]
  refine isValid_of_classes h ?_ hk (by omega)
  rw [List.length_map, encodedSymbols_length]
  omega

/-! ### What a decoder sees of the encoder behind it -/

variable {s : State} {n m : Nat} {l : List Idx}

/-- Decoder `m` is wired to the unfaulted encoder `n`, which has before it symbols that the decoder reads as data of the
indices `l`, then padding, and then no more. -/
def State.Chained (m n : Nat) (l : List Idx) (s : State) : Prop :=
  (s.dec m).src = .encoder n ∧ (s.enc n).com.fault = .none ∧ ∃ (vs : List Sym) (e' : Enc) (k : Nat),
    (s.enc n).Emits vs e' ∧ e'.noMore = true ∧
      vs.map (fun v => (s.dec m).com.rev (zext8 v)) = l.map .data ++ List.replicate k .pad

theorem State.enc_of_encs {t : State} (h : t.encs = s.encs) (k : Nat) : t.enc k = s.enc k :=
  congrArg (unitGet Enc.reset · k) h

/-- A decoder reads the symbol that the encoder behind it presents. -/
theorem State.decHead_of_presents {v : Sym} {e' : Enc} (hw : (s.dec m).src = .encoder n)
    (hf : (s.enc n).com.fault = .none) (hv : (s.enc n).Presents v e') :
    s.decHead m = some ((s.dec m).com.rev (zext8 v)) := by
  obtain ⟨hm, rfl, -⟩ := hv
  simp [State.decHead, State.head, State.wireEmpty, State.wireFront, State.encEmpty, State.encFront, hw, hf, hm]

theorem State.decHead_of_noMore (hw : (s.dec m).src = .encoder n) (hf : (s.enc n).com.fault = .none)
    (hm : (s.enc n).noMore = true) : s.decHead m = none := by
  simp [State.decHead, State.head, State.wireEmpty, State.encEmpty, hw, hf, hm]

/-- Taking a symbol from the encoder behind a decoder advances that encoder (rule R279). -/
theorem State.decTake_of_presents {v : Sym} {e' : Enc} {i : Idx} (hw : (s.dec m).src = .encoder n)
    (hf : (s.enc n).com.fault = .none) (hv : (s.enc n).Presents v e') :
    s.decTake m i = (s.setEnc n e').setDec m { s.dec m with prev := i } := by
  obtain ⟨hm, -, rfl⟩ := hv
  simp only [State.decTake, hw, State.wirePop_encoder, State.wireAdvance, hf, hm, Wire.popped]
  simp only [ne_eq, not_true_eq_false, if_false, Bool.false_eq_true, ← hw]

theorem State.port_chained (m n : Nat) : State.Port m (State.Chained m n) where
  head := by
    rintro i l s ⟨hw, hf, vs, e', k, hvs, -, hc⟩
    cases hvs with
    | nil => cases hc
    | cons hv _ =>
      rw [State.decHead_of_presents hw hf hv]
      exact congrArg some (List.cons.inj hc).1
  pop := by
    rintro i l s ⟨hw, hf, vs, e', k, hvs, hend, hc⟩
    cases hvs with
    | nil => cases hc
    | cons hv hvs =>
      rw [State.decTake_of_presents hw hf hv]
      refine ⟨by simpa using hw, ?_, _, e', k, by simpa using hvs, hend, by simpa using (List.cons.inj hc).2⟩
      simpa [hv.com_eq] using hf
  ended := by
    rintro s ⟨hw, hf, vs, e', k, hvs, hend, hc⟩
    cases hvs with
    | nil => exact .inl (State.decHead_of_noMore hw hf hend)
    | cons hv _ =>
      rw [State.decHead_of_presents hw hf hv]
      have hhead := congrArg List.head? hc
      exact .inr (congrArg some (eq_pad_of_mem_head?_replicate _ hhead.symm))
  congr := by
    rintro l s t ⟨hw, hf, vs, e', k, hvs, hend, hc⟩ hencs hcom hsrc
    have henc := State.enc_of_encs hencs n
    exact ⟨hsrc.trans hw, henc ▸ hf, vs, e', k, henc ▸ hvs, hend, by rwa [hcom]⟩

/-- An encoder constructed over `b` has before it the symbols of the indices of `b`, for a decoder constructed alike. -/
theorem State.Chained.of_starts {c : Common} {b : List Byte}
    (hok : cfgOk (zext8 c.c62) (zext8 c.c63) (zext8 c.cpad) = true) (hl : c.live = true) (hf : c.fault = .none)
    (hw : (s.dec m).src = .encoder n) (hd : (s.dec m).com = c) (he : (s.enc n).Starts c b) :
    s.Chained m n (encodedIndices b) := by
  obtain ⟨e', hemits, hend⟩ := he.emits hl
  obtain ⟨k, hk⟩ := rev_encodedSymbols hok b
  rw [List.map_map] at hk
  exact ⟨hw, he.com ▸ hf, _, e', k, hemits, hend.noMore, by rw [hd]; exact hk⟩

/-! ### The chain -/

/-- What a construction selects hangs on the configuration pins alone. -/
theorem selected_congr {s s' : State} (h : s.cfg = s'.cfg) : selected s = selected s' := by
  rw [selected, selected, h]

theorem accepted_congr {s s' : State} (h : s.cfg = s'.cfg) : accepted s = accepted s' := by
  rw [accepted, accepted, selected_congr h]

theorem built_congr {s s' : State} (h : s.cfg = s'.cfg) : built s = built s' := by
  rw [built, built, selected_congr h]

/-- A construction leaves the configuration pins as they are. -/
theorem State.encOver_cfg (b : List Byte) (h : accepted s = true) : (s.encOver n b).cfg = s.cfg := by
  rw [State.encOver, State.issue_eq ((encoderConstruction { s.setEnc n _ with port := n, tick := s.tick + 1 }
    false false).1 h)]
  rfl

/-- Settles O37: the chain's port shows the indices of the bytes, which the decoder joins again. -/
theorem chainedDecoderReturnsTheBytes : Obligations.ChainedDecoderReturnsTheBytes := by
  intro s n m b h hb s1
  have hstart : (s1.enc n).Starts (built s) b := State.encOver_starts b h
  have hcfg : s1.cfg = s.cfg := State.encOver_cfg (s := s) (n := n) b h
  have hbuilt : built s1 = built s := built_congr hcfg
  have hacc : accepted s1 = true := (accepted_congr hcfg).trans h
  have hdec : s1.dec m = { s.dec m with src := .encoder n } := State.setDec_dec_same _ _ _
  obtain ⟨u, hu, hud, hue⟩ := State.issue_decConstruct (s := s1) (n := m) false false hacc (by rw [hdec]; exact hb)
  rw [hbuilt, hdec] at hud
  have hchained : u.Chained m n (encodedIndices b) :=
    .of_starts (cfgOk_built h) rfl rfl (by rw [hud]) (by rw [hud])
      ((State.enc_of_encs hue n) ▸ hstart)
  have hP := State.port_chained m n
  have hprimed := (hP.prime (by rw [hud]; exact ⟨rfl, rfl, rfl⟩) (by rw [hud]) hchained).withRet hP .done
  rw [← hu] at hprimed
  obtain ⟨hbytes, hend⟩ := hprimed.decDrain hP (k := 2 * b.length + 2) (by rw [decodedBytes_encodedIndices]; omega)
  rw [decodedBytes_encodedIndices] at hbytes
  obtain ⟨-, hfault, -⟩ := hend.ahead
  exact ⟨hbytes, hend.decDrained hP, hfault⟩

end Sys2Proof.Machine
end

section
/-! What a command may write (rules R30, R242): the unit it is driven on, and the encoder that the source port of a decoder or
validator is wired to. `State.Confined A` says of two states that only the units of `A` and the recorded outcome and edge
count differ; every shared operation is confined to the units it names, so every command is. -/

namespace Sys2Proof.Machine

open Sys2Proof.Claims

/-! ### Units by number -/

/-- Only the units whose number is in `A` differ; where `A` is empty the lists are the same. -/
structure ListConfined {α : Type} (A : Nat → Prop) (dflt : α) (l l' : List α) : Prop where
  get : ∀ n, ¬A n → unitGet dflt l' n = unitGet dflt l n
  list : (∀ n, ¬A n) → l' = l

section Lists

variable {α : Type} {A : Nat → Prop} {dflt : α} {l l' l'' : List α}

theorem ListConfined.refl (l : List α) : ListConfined A dflt l l := ⟨fun _ _ => rfl, fun _ => rfl⟩

theorem ListConfined.trans (h : ListConfined A dflt l l') (h' : ListConfined A dflt l' l'') :
    ListConfined A dflt l l'' :=
  ⟨fun n hn => (h'.get n hn).trans (h.get n hn), fun hA => (h'.list hA).trans (h.list hA)⟩

theorem ListConfined.unitSet {n : Nat} (hn : A n) (v : α) : ListConfined A dflt l (unitSet dflt l n v) :=
  ⟨fun _ hm => unitGet_unitSet_other _ _ fun e => hm (e ▸ hn), fun hA => absurd hn (hA n)⟩

end Lists

/-! ### Confined operations -/

/-- From `s` to `t` no unit outside `A` is written, and none of the pending inputs, the driven number and the pins. -/
structure State.Confined (A : UnitKind → Nat → Prop) (s t : State) : Prop where
  encs : ListConfined (A .enc) Enc.reset s.encs t.encs
  decs : ListConfined (A .dec) Dec.reset s.decs t.decs
  vals : ListConfined (A .val) Val.reset s.vals t.vals
  tbls : ListConfined (A .tbl) Tbl.reset s.tbls t.tbls
  inbox : t.inbox = s.inbox
  port : t.port = s.port
  cfg : t.cfg = s.cfg

variable {A : UnitKind → Nat → Prop} {s t u : State} {n : Nat} {i : Instr}

theorem State.Confined.refl (s : State) : Confined A s s := ⟨.refl _, .refl _, .refl _, .refl _, rfl, rfl, rfl⟩

theorem State.Confined.trans (h : Confined A s t) (h' : Confined A t u) : Confined A s u :=
  ⟨h.encs.trans h'.encs, h.decs.trans h'.decs, h.vals.trans h'.vals, h.tbls.trans h'.tbls, h'.inbox.trans h.inbox,
    h'.port.trans h.port, h'.cfg.trans h.cfg⟩

theorem State.Confined.enc (h : Confined A s t) (hn : ¬A .enc n) : t.enc n = s.enc n := h.encs.get n hn

theorem State.Confined.dec (h : Confined A s t) (hn : ¬A .dec n) : t.dec n = s.dec n := h.decs.get n hn

theorem State.Confined.val (h : Confined A s t) (hn : ¬A .val n) : t.val n = s.val n := h.vals.get n hn

theorem State.Confined.tbl (h : Confined A s t) (hn : ¬A .tbl n) : t.tbl n = s.tbl n := h.tbls.get n hn

/-- The recorded outcome is no unit. -/
theorem State.Confined.withRet (h : Confined A s t) (r : Ret) : Confined A s (t.withRet r) :=
  ⟨h.encs, h.decs, h.vals, h.tbls, h.inbox, h.port, h.cfg⟩

theorem State.confined_nextEdge (s : State) : Confined A s s.nextEdge :=
  ⟨.refl _, .refl _, .refl _, .refl _, rfl, rfl, rfl⟩

theorem State.confined_setEnc (hn : A .enc n) (e : Enc) : Confined A s (s.setEnc n e) :=
  ⟨.unitSet hn e, .refl _, .refl _, .refl _, rfl, rfl, rfl⟩

theorem State.confined_setDec (hn : A .dec n) (d : Dec) : Confined A s (s.setDec n d) :=
  ⟨.refl _, .unitSet hn d, .refl _, .refl _, rfl, rfl, rfl⟩

theorem State.confined_setVal (hn : A .val n) (v : Val) : Confined A s (s.setVal n v) :=
  ⟨.refl _, .refl _, .unitSet hn v, .refl _, rfl, rfl, rfl⟩

theorem State.confined_setTbl (hn : A .tbl n) (t : Tbl) : Confined A s (s.setTbl n t) :=
  ⟨.refl _, .refl _, .refl _, .unitSet hn t, rfl, rfl, rfl⟩

theorem State.confined_raise {k : UnitKind} (hn : A k n) (f : FaultCode) : Confined A s (s.raise k n f) := by
  refine Confined.withRet ?_ _
  cases k with
  | enc => exact confined_setEnc hn _
  | dec => exact confined_setDec hn _
  | val => exact confined_setVal hn _
  | tbl => exact confined_setTbl hn _

/-- The encoder a port is wired to is one of `A`. -/
def Wire.Within (A : UnitKind → Nat → Prop) (w : Wire) : Prop := ∀ k, w = .encoder k → A .enc k

theorem State.confined_wirePop {w : Wire} (hw : w.Within A) : Confined A s (s.wirePop w) := by
  cases w with
  | stream src => exact .refl s
  | encoder k =>
    have hk : A .enc k := hw k rfl
    obtain ⟨-, e⟩ | ⟨-, -, e⟩ | ⟨-, -, e⟩ := s.wireAdvance_cases k <;> rw [State.wirePop_encoder, e]
    · exact .refl s
    · exact confined_setEnc hk _
    · exact confined_setEnc hk _

section Decoder

variable (hn : A .dec n)
include hn

theorem State.confined_prime (hw : (s.dec n).src.Within A) : Confined A s (s.prime n) := by
  obtain ⟨c, -, e⟩ | ⟨-, e⟩ := s.prime_cases n <;> rw [e]
  · exact (confined_wirePop hw).trans (confined_setDec hn _)
  · exact .refl s

theorem State.confined_primeEdge (hw : (s.dec n).src.Within A) : Confined A s (s.primeEdge n) :=
  (confined_prime hn hw).trans (confined_setDec hn _)

theorem State.confined_owePrime (hw : (s.dec n).src.Within A) (pinLevel : Bool) :
    Confined A s (s.owePrime n pinLevel) := by
  cases pinLevel
  · exact s.confined_nextEdge.trans (confined_prime hn hw)
  · exact confined_setDec hn _

theorem State.confined_decAdvanced (hw : (s.dec n).src.Within A) (c : Idx) (pinLevel : Bool) :
    Confined A s (s.decAdvanced n c pinLevel) := by
  have taken : Confined A s (s.decTake n c) := (confined_wirePop hw).trans (confined_setDec hn _)
  obtain ⟨-, e⟩ | ⟨-, e⟩ := s.decAdvanced_cases n c pinLevel <;> rw [e]
  · exact taken.trans (confined_setDec hn _)
  · refine (taken.trans (confined_setDec hn _)).trans (confined_owePrime hn (fun k hk => ?_) pinLevel)
    rw [State.setDec_dec_same] at hk
    exact hw k (((decConfined_decTake n s c).wire k).1 hk)

end Decoder

/-! ### Confined commands -/

/-- The command may write unit `n` of type `u`: it is driven on it, or on a unit whose source port is wired to it. -/
def Reaches (s : State) (i : Instr) (u : UnitKind) (n : Nat) : Prop :=
  Drives s i u n ∨ u = .enc ∧
    (i.unit = .dec ∧ (s.dec s.port).src = .encoder n ∨ i.unit = .val ∧ (s.val s.port).src = .encoder n)

theorem State.confined_encStrobe {k : Enc → State} (hn : A .enc s.port) (hk : Confined A s (k (s.enc s.port))) :
    Confined A s (s.encStrobe k) := by
  obtain ⟨-, e⟩ | ⟨-, -, e⟩ | ⟨-, -, e⟩ := s.encStrobe_cases k <;> rw [e]
  · exact (Confined.refl s).withRet _
  · exact confined_raise hn _
  · exact hk

theorem State.confined_decStrobe {rd : Bool} {k : Dec → Idx → State} (hn : A .dec s.port)
    (hw : (s.dec s.port).src.Within A) (hk : ∀ c, Confined A s (k (s.dec s.port) c)) : Confined A s (s.decStrobe rd k) := by
  obtain ⟨-, e⟩ | ⟨-, ⟨-, e⟩ | ⟨-, ⟨-, e⟩ | ⟨-, ⟨-, e⟩ | ⟨-, e⟩ | ⟨c, -, e⟩⟩⟩⟩ := s.decStrobe_cases rd k <;> rw [e]
  · have primed : Confined A s (s.primeEdge s.port) := confined_primeEdge hn hw
    cases rd
    · exact primed
    · exact primed.withRet _
  · exact (Confined.refl s).withRet _
  · exact confined_raise hn _
  · exact confined_raise hn _
  · exact confined_raise hn _
  · exact hk c

theorem State.confined_decConstruct (hn : A .dec s.port) (hw : (s.dec s.port).src.Within A) (pinLevel : Bool) :
    Confined A s (s.decConstruct pinLevel) := by
  unfold State.decConstruct
  dsimp only
  split
  · exact confined_primeEdge hn hw
  · split
    · exact ((confined_setDec hn _).trans (confined_owePrime hn (by simpa using hw) pinLevel)).withRet _
    · exact (confined_setDec hn _).withRet _

/-- Every operation writes only what its command reaches. -/
theorem exec_confined (ht : exec i s = .next t) : State.Confined (Reaches s i) s t := by
  have driven : Reaches s i i.unit s.port := .inl ⟨rfl, rfl⟩
  have wiredDec (hi : i.unit = .dec) : (s.dec s.port).src.Within (Reaches s i) := fun k hk => .inr ⟨rfl, .inl ⟨hi, hk⟩⟩
  cases i with
  | encNop | valNop | tblNop =>
    cases ht
    exact (State.Confined.refl s).withRet _
  | encFront =>
    cases ht
    exact State.confined_encStrobe driven ((State.Confined.refl s).withRet _)
  | encAdvance | encPop =>
    cases ht
    exact State.confined_encStrobe driven ((State.confined_setEnc driven _).withRet _)
  | encConstruct =>
    cases ht
    exact (State.confined_setEnc driven _).withRet _
  | decNop =>
    cases ht
    split
    · exact State.confined_primeEdge driven (wiredDec rfl)
    · exact (State.Confined.refl s).withRet _
  | decFront =>
    cases ht
    exact State.confined_decStrobe driven (wiredDec rfl) fun _ => (State.Confined.refl s).withRet _
  | decAdvance | decPop =>
    cases ht
    exact State.confined_decStrobe driven (wiredDec rfl) fun c =>
      (State.confined_decAdvanced driven (wiredDec rfl) c false).withRet _
  | decConstruct =>
    cases ht
    exact State.confined_decConstruct driven (wiredDec rfl) false
  | valStep rd =>
    obtain ⟨-, e⟩ | ⟨-, ⟨-, e⟩ | ⟨-, cls, -, e⟩⟩ := execValStep_cases s <;> cases e.symm.trans ht
    · exact (State.Confined.refl s).withRet _
    · exact State.confined_raise driven _
    · exact ((State.confined_wirePop fun k hk => .inr ⟨rfl, .inr ⟨rfl, hk⟩⟩).trans
        (State.confined_setVal driven _)).withRet _
  | valConstruct =>
    cases ht
    exact (State.confined_setVal driven _).withRet _
  | tblBuild =>
    cases ht
    exact (State.confined_setTbl driven _).withRet _

/-- And so does every clock edge. -/
theorem edge_confined (ht : edge i s = .next t) : State.Confined (Reaches s i) s t := by
  have driven : Reaches s i i.unit s.port := .inl ⟨rfl, rfl⟩
  have wiredDec (hi : i.unit = .dec) : (s.dec s.port).src.Within (Reaches s i) := fun k hk => .inr ⟨rfl, .inl ⟨hi, hk⟩⟩
  cases i with
  | decAdvance | decPop =>
    cases ht
    exact State.confined_decStrobe driven (wiredDec rfl) fun c =>
      (State.confined_decAdvanced driven (wiredDec rfl) c true).withRet _
  | decConstruct =>
    cases ht
    exact State.confined_decConstruct driven (wiredDec rfl) true
  | _ => exact exec_confined ht

/-- No command reaches a unit of another type but an encoder along a wire. -/
theorem not_reaches {v : UnitKind} (hv : v ≠ .enc) (hi : i.unit ≠ v) (n : Nat) : ¬Reaches s i v n := by
  rintro (⟨hu, -⟩ | ⟨hu, -⟩)
  · exact hi hu
  · exact hv hu

/-- Settles O52: what a command does not reach it leaves as it is. -/
theorem otherUnitsAreUntouched : Obligations.OtherUnitsAreUntouched := by
  intro i s t ht
  have h : State.Confined (Reaches s i) s t := ht.elim exec_confined edge_confined
  refine ⟨fun n hd hdec hval => h.enc ?_, fun n hd => h.dec ?_, fun n hd => h.val ?_, fun n hd => h.tbl ?_, h.inbox, h.port, h.cfg⟩
  · rintro (hd' | ⟨-, ⟨hu, hk⟩ | ⟨hu, hk⟩⟩)
    exacts [hd hd', hdec hu hk, hval hu hk]
  all_goals
    rintro (hd' | ⟨hu, -⟩)
    · exact hd hd'
    · cases hu

/-! ### The table registers (rules R30, R77) -/

/-- The registers that only a construction writes are the same. -/
def Common.SameTable (c c' : Common) : Prop :=
  c'.live = c.live ∧ c'.c62 = c.c62 ∧ c'.c63 = c.c63 ∧ c'.cpad = c.cpad

/-- A fault raised on whichever unit writes no table register (rule R234). -/
theorem State.raise_sameTable (s : State) (u v : UnitKind) (m n : Nat) (f : FaultCode) :
    (s.common u n).SameTable ((s.raise v m f).common u n) := by
  by_cases h : u = v ∧ n = m
  · obtain ⟨rfl, rfl⟩ := h
    cases u <;> simp [State.raise, Common.SameTable]
  · have kept : (s.raise v m f).common u n = s.common u n := by
      rw [State.raise, State.withRet_common]
      exact State.setCommon_common fun hu hn => absurd ⟨hu, hn⟩ h
    rw [kept]
    exact ⟨rfl, rfl, rfl, rfl⟩

theorem State.KeptOrRaised.sameTable {v : UnitKind} {m : Nat} (h : s.KeptOrRaised v m t) (u : UnitKind) (n : Nat) :
    (s.common u n).SameTable (t.common u n) := by
  obtain h | ⟨f, rfl⟩ := h
  · rw [h u n]
    exact ⟨rfl, rfl, rfl, rfl⟩
  · exact s.raise_sameTable u v m n f

/-- Settles O13: a command that constructs nothing keeps the common registers or raises a fault, which writes `fault` alone;
a construction writes those of the unit it is driven on. -/
theorem onlyConstructionWritesTheTable : Obligations.OnlyConstructionWritesTheTable := by
  intro i s t u n ht hn
  cases hi : constructs i
  · exact (ht.elim (exec_keptOrRaised hi) (edge_keptOrRaised hi)).sameTable u n
  · have other : ¬(u = i.unit ∧ n = s.port) := fun h => hn ⟨hi, h.1.symm, h.2.symm⟩
    rw [ht.elim (exec_construction_common_other hi · other) (edge_construction_common_other hi · other)]
    exact ⟨rfl, rfl, rfl, rfl⟩

/-! ### The count of clock edges -/

/-- Only a decoder's operation may include a further edge, for its prime (rules R38, R280). -/
theorem exec_tick (hi : i.unit ≠ .dec) (ht : exec i s = .next t) : t.tick = s.tick := by
  cases i with
  | decNop | decAdvance | decFront | decPop | decConstruct => exact absurd rfl hi
  | encFront | encAdvance | encPop =>
    cases ht
    obtain ⟨-, e⟩ | ⟨-, -, e⟩ | ⟨-, -, e⟩ := s.encStrobe_cases _ <;> rw [e] <;> rfl
  | valStep rd =>
    obtain ⟨-, e⟩ | ⟨-, ⟨-, e⟩ | ⟨-, cls, -, e⟩⟩ := execValStep_cases s <;> cases e.symm.trans ht
    · rfl
    · rfl
    · exact s.wirePop_tick _
  | encNop | encConstruct | valNop | valConstruct | tblNop | tblBuild =>
    cases ht
    rfl

end Sys2Proof.Machine
end

section
/-! The frames of the units' own commands (rules R13, R38, R71, R185, R228): of the driven unit, which registers a command
leaves as they are. Outside it `State.Confined` says what is unchanged. -/

namespace Sys2Proof.Machine

open Sys2Proof.Claims

variable {s t : State} {i : Instr} {n : Nat} {c : FaultCode}

theorem constructs_of_decStrobed (hi : decStrobed i) : constructs i = false := by
  obtain rfl | rfl | rfl := hi <;> rfl

/-! ### The encoder -/

/-- An advance leaves the items of the source, and pops one of them or neither moves on nor writes `prev`. -/
theorem Enc.advanced_frame (e : Enc) :
    e.advanced.src.items = e.src.items ∧ e.advanced.src.tail = e.src.tail ∧
      (e.advanced.src.rp = e.src.rp ∧ e.advanced.prev = e.prev ∨
        e.advanced.src.rp = e.src.rp + 1 ∧ e.src.exhausted = false) := by
  obtain ⟨-, h⟩ | ⟨-, -, h⟩ | ⟨-, -, -, h⟩ | ⟨-, -, hx, h⟩ := e.advanced_cases <;> rw [h]
  · exact ⟨rfl, rfl, .inl ⟨rfl, rfl⟩⟩
  · exact ⟨rfl, rfl, .inl ⟨rfl, rfl⟩⟩
  · exact ⟨rfl, rfl, .inl ⟨rfl, rfl⟩⟩
  · exact ⟨rfl, rfl, .inr ⟨rfl, hx⟩⟩

/-- What a strobed command makes of the driven encoder: nothing, a `PREMATURE` fault, or an advance if it is no `FRONT`. -/
theorem exec_encStrobed_enc (hi : encStrobed i) (ht : exec i s = .next t) :
    t.enc s.port = s.enc s.port ∨
      t.enc s.port = { s.enc s.port with com := { (s.enc s.port).com with fault := .premature } } ∨
      i ≠ .encFront ∧ t.enc s.port = (s.enc s.port).advanced := by
  by_cases hf : (s.enc s.port).com.fault = .none
  · cases hm : (s.enc s.port).noMore
    · obtain ⟨-, -, hfront, hadvance, hpop⟩ := encRow_of_presents hf ⟨hm, rfl, rfl⟩
      obtain rfl | rfl | rfl := hi
      · cases hfront.symm.trans ht
        exact .inl rfl
      · cases hadvance.symm.trans ht
        exact .inr (.inr ⟨nofun, State.setEnc_enc_same _ _ _⟩)
      · cases hpop.symm.trans ht
        exact .inr (.inr ⟨nofun, State.setEnc_enc_same _ _ _⟩)
    · cases (exec_encStrobed_noMore hi hf hm).symm.trans ht
      exact .inr (.inl (State.setEnc_enc_same _ _ _))
  · cases (exec_encStrobed_faulted hi hf).symm.trans ht
    exact .inl rfl

/-- Settles O22: outside the driven encoder nothing is reached, and of it an advance or a fault is all there is. -/
theorem encoderFrame : Obligations.EncoderFrame := by
  intro i s t hi ht
  have hunit : i.unit = .enc := by
    obtain rfl | hi := hi
    · rfl
    · exact unit_of_encStrobed hi
  have hnc : constructs i = false := by
    obtain rfl | hi := hi
    · rfl
    · exact constructs_of_encStrobed hi
  have h := exec_confined ht
  have other {v : UnitKind} (hv : v ≠ .enc) : ∀ n, ¬Reaches s i v n := not_reaches hv (by rw [hunit]; exact hv.symm)
  have driven : t.enc s.port = s.enc s.port ∨ i ≠ .encNop ∧
      (t.enc s.port = { s.enc s.port with com := { (s.enc s.port).com with fault := .premature } } ∨
        i ≠ .encFront ∧ t.enc s.port = (s.enc s.port).advanced) := by
    obtain rfl | hi := hi
    · cases ht
      exact .inl rfl
    · have hnop : i ≠ .encNop := by obtain rfl | rfl | rfl := hi <;> nofun
      exact (exec_encStrobed_enc hi ht).imp id (⟨hnop, ·⟩)
  obtain ⟨hlive, h62, h63, hpad⟩ := onlyConstructionWritesTheTable i s t .enc s.port (.inl ht) (by simp [hnc])
  refine ⟨fun n hn => h.enc ?_, h.decs.list (other (by decide)), h.vals.list (other (by decide)),
    h.tbls.list (other (by decide)), h.inbox, h.port, h.cfg, exec_tick (by rw [hunit]; decide) ht, hlive, h62, h63, hpad,
    ?_⟩
  · rintro (⟨-, hp⟩ | ⟨-, ⟨hu, -⟩ | ⟨hu, -⟩⟩)
    · exact hn hp.symm
    · cases hunit.symm.trans hu
    · cases hunit.symm.trans hu
  obtain e | ⟨hnop, e | ⟨hfront, e⟩⟩ := driven <;> rw [e]
  · exact ⟨fun _ => rfl, fun _ => rfl, rfl, rfl, .inl ⟨rfl, rfl⟩⟩
  · exact ⟨(absurd · hnop), fun _ => rfl, rfl, rfl, .inl ⟨rfl, rfl⟩⟩
  · exact ⟨(absurd · hnop), (absurd · hfront), (s.enc s.port).advanced_frame⟩

/-! ### The decoder -/

/-- A decoder's operation counts one clock edge for a prime, or none (rule R280). -/
theorem exec_decStrobed_tick (hi : decStrobed i) (ht : exec i s = .next t) : t.tick = s.tick ∨ t.tick = s.tick + 1 := by
  have advanced (x : Idx) : (s.decAdvanced s.port x false).tick = s.tick ∨
      (s.decAdvanced s.port x false).tick = s.tick + 1 := by
    have htake : (s.decTake s.port x).tick = s.tick := by simp [s.decTake_other]
    obtain ⟨-, e⟩ | ⟨-, e⟩ := s.decAdvanced_cases s.port x false <;> rw [e]
    · exact .inl htake
    · refine .inr (Eq.trans ?_ (congrArg (· + 1) htake))
      simp [State.owePrime, State.prime_other]
  have strobed {rd : Bool} {k : Dec → Idx → State} (hk : ∀ x, (k (s.dec s.port) x).tick = s.tick ∨
      (k (s.dec s.port) x).tick = s.tick + 1) : (s.decStrobe rd k).tick = s.tick ∨ (s.decStrobe rd k).tick = s.tick + 1 := by
    obtain ⟨-, e⟩ | ⟨-, ⟨-, e⟩ | ⟨-, ⟨-, e⟩ | ⟨-, ⟨-, e⟩ | ⟨-, e⟩ | ⟨x, -, e⟩⟩⟩⟩ := s.decStrobe_cases rd k <;> rw [e]
    · cases rd <;> simp [s.primeEdge_other, State.primeEdgeRead]
    · exact .inl rfl
    · exact .inl rfl
    · exact .inl rfl
    · exact .inl rfl
    · exact hk x
  obtain rfl | rfl | rfl := hi <;> cases ht
  · exact strobed fun _ => .inl rfl
  · exact strobed advanced
  · exact strobed advanced

/-- `FRONT` of a decoder that is not busy writes its `fault` at most. -/
theorem exec_decFront_idle (hb : (s.dec s.port).needPrime = false) (ht : exec .decFront s = .next t) :
    (∃ r, t = s.withRet r) ∨ (s.dec s.port).com.fault = .none ∧ ∃ f, t = decFaulted s f := by
  cases ht
  obtain ⟨hb', -⟩ | ⟨-, ⟨-, e⟩ | ⟨hf, ⟨-, e⟩ | ⟨-, ⟨-, e⟩ | ⟨-, e⟩ | ⟨x, -, e⟩⟩⟩⟩ := s.decStrobe_cases true
    fun d c => s.withRet (.byte (d.byte c))
  · simp [hb] at hb'
  · exact .inl ⟨_, e⟩
  · exact .inr ⟨hf, _, e.trans (s.raise_dec _ _ hf)⟩
  · exact .inr ⟨hf, _, e.trans (s.raise_dec _ _ hf)⟩
  · exact .inr ⟨hf, _, e.trans (s.raise_dec _ _ hf)⟩
  · exact .inl ⟨_, e⟩

/-- Settles O33: outside the driven decoder and the encoder behind it nothing is reached; an idle `NOP` or `FRONT` writes
`fault` at most. -/
theorem decoderFrame : Obligations.DecoderFrame := by
  intro i s t hi ht
  have hunit : i.unit = .dec := by
    obtain rfl | hi := hi
    · rfl
    · exact unit_of_decStrobed hi
  have hnc : constructs i = false := by
    obtain rfl | hi := hi
    · rfl
    · exact constructs_of_decStrobed hi
  have htick : t.tick = s.tick ∨ t.tick = s.tick + 1 := by
    obtain rfl | hi := hi
    · cases ht
      split
      · exact .inl (by simp [s.primeEdge_other])
      · exact .inl rfl
    · exact exec_decStrobed_tick hi ht
  have h := exec_confined ht
  have hdec := exec_decConfined hunit ht
  have other {v : UnitKind} (hv : v ≠ .enc) (hv' : v ≠ .dec) : ∀ n, ¬Reaches s i v n :=
    not_reaches hv (by rw [hunit]; exact hv'.symm)
  obtain ⟨hlive, h62, h63, hpad⟩ := onlyConstructionWritesTheTable i s t .dec s.port (.inl ht) (by simp [hnc])
  refine ⟨hdec.dec, hdec.vals, h.tbls.list (other (by decide) (by decide)), h.inbox, h.port, h.cfg, htick, hdec.enc, hlive,
    h62, h63, hpad, fun hb => ⟨?_, ?_⟩⟩
  · rintro rfl
    cases (exec_idles (.inr (.inl rfl)) (by simp [Unheard, hb])).symm.trans ht
    exact ⟨rfl, rfl, rfl⟩
  · rintro rfl
    obtain ⟨r, rfl⟩ | ⟨-, f, rfl⟩ := exec_decFront_idle hb ht
    · exact ⟨rfl, rfl, rfl⟩
    · have hd : (decFaulted s f).dec s.port = { s.dec s.port with com := { (s.dec s.port).com with fault := f } } :=
        State.setDec_dec_same _ _ _
      rw [hd]
      exact ⟨rfl, rfl, rfl⟩

/-- At the operation level an `ADVANCE` leaves no prime owed that was not before it (rule R38). -/
theorem State.decAdvanced_needPrime (s : State) (n : Nat) (x : Idx) :
    ((s.decAdvanced n x false).dec n).needPrime = (s.dec n).needPrime := by
  obtain ⟨-, e⟩ | ⟨-, e⟩ := s.decAdvanced_cases n x false <;> rw [e]
  · simp [s.decTake_other]
  · simp [State.owePrime, State.prime_other, s.decTake_other]

/-- No operation of a decoder leaves a prime owed (rule R38). -/
theorem exec_dec_needPrime (hi : i.unit = .dec) (ht : exec i s = .next t) : (t.dec s.port).needPrime = false := by
  have busy : ((s.primeEdge s.port).dec s.port).needPrime = false := by simp [s.primeEdge_other]
  have strobed {rd : Bool} {k : Dec → Idx → State}
      (hk : ∀ x, ((k (s.dec s.port) x).dec s.port).needPrime = (s.dec s.port).needPrime) :
      ((s.decStrobe rd k).dec s.port).needPrime = false := by
    obtain ⟨-, e⟩ | ⟨hb, ⟨-, e⟩ | ⟨-, ⟨-, e⟩ | ⟨-, ⟨-, e⟩ | ⟨-, e⟩ | ⟨x, -, e⟩⟩⟩⟩ := s.decStrobe_cases rd k <;> rw [e]
    · cases rd <;> exact busy
    · exact hb
    · simpa [State.raise] using hb
    · simpa [State.raise] using hb
    · simpa [State.raise] using hb
    · exact (hk x).trans hb
  cases i <;> cases hi <;> cases ht
  case decNop =>
    cases hb : (s.dec s.port).needPrime
    · simpa using hb
    · exact busy
  case decFront => exact strobed fun _ => rfl
  case decAdvance | decPop => exact strobed fun x => s.decAdvanced_needPrime s.port x
  case decConstruct =>
    cases hb : (s.dec s.port).needPrime
    · cases h : accepted s
      · simp [State.decConstruct_not_accepted hb h]
      · simp [State.decConstruct_accepted hb h, State.owePrime, State.prime_other]
    · rw [State.decConstruct, if_pos hb]
      exact busy

/-- Settles O31: an operation leaves none owed on the driven decoder, and the others as they are. -/
theorem noPrimeIsOwedBetweenOperations : Obligations.NoPrimeIsOwedBetweenOperations := by
  intro i s t h ht n
  by_cases hi : i.unit = .dec
  · by_cases hn : n = s.port
    · exact hn ▸ exec_dec_needPrime hi ht
    · rw [(exec_decConfined hi ht).dec n hn]
      exact h n
  · rw [(exec_confined ht).dec (not_reaches (by decide) hi n)]
    exact h n

/-- What a command of a decoder with padding at its head leaves: nothing changes but the outcome, or `PREMATURE` is raised. -/
theorem exec_dec_of_pad (hi : i.unit = .dec) (hc : constructs i = false) (hb : (s.dec s.port).needPrime = false)
    (hp : s.decHead s.port = some .pad) (ht : exec i s = .next t) :
    ¬decStrobed i ∧ t = { s with ret := .done } ∨
      (s.dec s.port).com.fault ≠ .none ∧ t = { s with ret := .ignored } ∨
      (s.dec s.port).com.fault = .none ∧ t = decFaulted s .premature := by
  obtain hc' | hidle | henc | hdec | ⟨rd, rfl⟩ := command_cases i
  · simp [hc] at hc'
  · cases (exec_idles hidle (by simp [Unheard, hb])).symm.trans ht
    exact .inl ⟨fun hs => not_strobed_of_idles hidle (.inr (.inl hs)), rfl⟩
  · cases hi.symm.trans (unit_of_encStrobed henc)
  · by_cases hf : (s.dec s.port).com.fault = .none
    · cases (exec_decStrobed_ended hb hf hdec (.inr hp)).symm.trans ht
      exact .inr (.inr ⟨hf, rfl⟩)
    · cases (exec_decStrobed_faulted hb hdec hf).symm.trans ht
      exact .inr (.inl ⟨hf, rfl⟩)
  · cases hi

/-- Settles O32: such a command changes the `fault` of the decoder at most, so its head stays, and it returns no byte. -/
theorem paddingEndsTheByteStream : Obligations.PaddingEndsTheByteStream := by
  intro i s t hi hc hb hp ht
  have hcases := exec_dec_of_pad hi hc hb hp ht
  have hkept := kept_of_exec_of_decEnded (exec_of_decEnded hi hc hb (.inr (.inr hp)) (.inl ht))
  obtain ⟨-, hsrc, hencs, hrev, htick⟩ := hkept
  refine ⟨(State.decHead_congr hsrc hrev (fun k _ => State.enc_of_encs hencs k) htick).trans hp, hsrc, hencs, ?_⟩
  have hempty (hf : (s.dec s.port).com.fault = .none) : s.decEmpty s.port = true :=
    (State.decEmpty_iff hb hf).2 (.inr (.inr hp))
  obtain ⟨hns, rfl⟩ | ⟨hf, rfl⟩ | ⟨hf, rfl⟩ := hcases
  · exact ⟨rfl, rfl, nofun, fun hf _ => ⟨hempty hf, fun hs => absurd hs hns⟩⟩
  · exact ⟨rfl, rfl, nofun, fun hf' _ => absurd hf' hf⟩
  · have hd : (decFaulted s .premature).dec s.port =
        { s.dec s.port with com := { (s.dec s.port).com with fault := .premature } } := State.setDec_dec_same _ _ _
    rw [hd]
    exact ⟨rfl, rfl, nofun, fun _ _ => ⟨hempty hf, fun _ => rfl⟩⟩

/-! ### The validator and the table -/

/-- Settles O43: outside the driven unit and the encoder behind a validator nothing is reached; a `STEP` that does not
complete is ignored or raises a fault. -/
theorem validatorAndTableFrame : Obligations.ValidatorAndTableFrame := by
  refine ⟨fun rd s t ht => ?_, fun i rd adv s t hi ht => ?_⟩
  · have h := exec_confined ht
    obtain ⟨hlive, h62, h63, hpad⟩ := onlyConstructionWritesTheTable (.valStep rd) s t .val s.port (.inl ht) (by simp [constructs])
    obtain ⟨hdecs, henc⟩ := exec_val_frame rfl ht
    refine ⟨fun n hn => h.val ?_, hdecs, h.tbls.list (not_reaches (by decide) nofun), h.inbox, h.port, h.cfg,
      exec_tick (by simp [Instr.unit]) ht, henc, hlive, h62, h63, hpad, fun hret => ?_⟩
    · rintro (⟨-, hp⟩ | ⟨hu, -⟩)
      · exact hn hp.symm
      · cases hu
    · obtain ⟨-, e⟩ | ⟨hf, ⟨-, e⟩ | ⟨-, cls, -, e⟩⟩ := execValStep_cases s <;> cases e.symm.trans ht
      · exact ⟨rfl, rfl, rfl, rfl, rfl⟩
      · simp [s.raise_val _ _ hf]
      · exact absurd rfl hret
  · obtain rfl | rfl := hi <;> cases ht
    · exact ⟨rfl, rfl, rfl, rfl, rfl, rfl, by simp [Val.cursorReset],
        fun n hn => s.setVal_val_other _ (by simpa [Instr.unit] using hn), fun _ _ => rfl⟩
    · exact ⟨rfl, rfl, rfl, rfl, rfl, rfl, rfl, fun _ _ => rfl,
        fun n hn => s.setTbl_tbl_other _ (by simpa [Instr.unit] using hn)⟩

/-! ### Faults and completion -/

/-- Settles O49: each row of the table of causes but that of a construction leaves the state with the code latched. -/
theorem faultingOperationWritesOnlyFault : Obligations.FaultingOperationWritesOnlyFault := by
  intro i s t c hc hu ht hret
  cases raises_of_exec ht hu hret with
  | config hi _ => simp [hc] at hi
  | malformed hi hf hl hd =>
    have hunit := unit_of_decStrobed hi
    cases (exec_decStrobed_invalid (needPrime_of_heard hu hunit) hf hl hi hd).symm.trans ht
    rw [hunit]
    exact ⟨hf, rfl⟩
  | premature hi hf h =>
    refine ⟨hf, ?_⟩
    obtain hi | hi | ⟨rd, rfl⟩ := hi
    · rw [unit_of_encStrobed hi] at hf h ⊢
      cases (exec_encStrobed_noMore hi hf h).symm.trans ht
      rfl
    · have hunit := unit_of_decStrobed hi
      have hb := needPrime_of_heard hu hunit
      rw [hunit] at hf h ⊢
      obtain hl | hd := h
      · cases (exec_decStrobed_notLive hb hf hi hl).symm.trans ht
        rfl
      · cases (exec_decStrobed_ended hb hf hi hd).symm.trans ht
        rfl
    · cases (exec_valStep_premature rd hf h).symm.trans ht
      rfl

/-- Settles O50: a `FRONT` that returns a value writes nothing but the outcome, so it completes again. -/
theorem frontIsIdempotent : Obligations.FrontIsIdempotent := by
  refine ⟨fun s t v ht hret => ?_, fun s t v hb ht hret => ?_⟩
  · cases ht
    obtain ⟨-, e⟩ | ⟨-, -, e⟩ | ⟨hf, hm, e⟩ := s.encStrobe_cases fun e => s.withRet (.symbol e.symbol) <;> rw [e] at hret ⊢
    · cases hret
    · cases hret
    · obtain ⟨-, -, hfront, -⟩ :=
        encRow_of_presents (s := s.withRet (.symbol (s.enc s.port).symbol)) hf ⟨hm, rfl, rfl⟩
      exact hfront
  · cases ht
    obtain ⟨hb', -⟩ | ⟨-, ⟨-, e⟩ | ⟨hf, ⟨-, e⟩ | ⟨hl, ⟨-, e⟩ | ⟨-, e⟩ | ⟨x, hx, e⟩⟩⟩⟩ := s.decStrobe_cases true
      fun d c => s.withRet (.byte (d.byte c))
    · simp [hb] at hb'
    all_goals rw [e] at hret ⊢
    · cases hret
    · cases hret
    · cases hret
    · cases hret
    · obtain ⟨-, -, hfront, -⟩ := decRow_of_data (s := s.withRet (.byte ((s.dec s.port).byte x))) hb hf hl hx
      exact hfront

end Sys2Proof.Machine
end

section
/-! Two runs side by side (rules R40, R77, R242). `State.Twins F` relates two states that may differ as the slack `F` says: in
some units at will, and in others, while they are not live, in the registers that reset leaves unspecified. A command that
reaches none of the units that differ at will does to both the same, whatever the slack. -/

namespace Sys2Proof.Machine

open Sys2Proof.Claims

/-! ### Units that differ where it cannot show -/

/-- Two encoders that are not live, alike but for what reset leaves unspecified (rule R40). -/
structure Enc.Shadow (e e' : Enc) : Prop where
  live : e.com.live = false
  live' : e'.com.live = false
  fault : e.com.fault = e'.com.fault
  pos : e.pos = e'.pos
  pad : e.pad = e'.pad
  src : e.src = e'.src

/-- Two decoders that are not live and owe no prime, alike but for what reset leaves unspecified. -/
structure Dec.Shadow (d d' : Dec) : Prop where
  live : d.com.live = false
  live' : d'.com.live = false
  idle : d.needPrime = false
  idle' : d'.needPrime = false
  fault : d.com.fault = d'.com.fault
  pos : d.pos = d'.pos
  src : d.src = d'.src

/-- Two validators that are not live, alike but for what reset leaves unspecified. -/
structure Val.Shadow (v v' : Val) : Prop where
  live : v.com.live = false
  live' : v'.com.live = false
  fault : v.com.fault = v'.com.fault
  cnt : v.cnt = v'.cnt
  npad : v.npad = v'.npad
  bad : v.bad = v'.bad
  src : v.src = v'.src

/-- Two tables that are not live, alike but for what reset leaves unspecified. -/
structure Tbl.Shadow (t t' : Tbl) : Prop where
  live : t.com.live = false
  live' : t'.com.live = false
  fault : t.com.fault = t'.com.fault

/-- The same unit, or, where `p` allows it, two that differ where it cannot show. -/
def Twin {α : Type} (S : α → α → Prop) (p : Prop) (x x' : α) : Prop := x = x' ∨ p ∧ S x x'

theorem Twin.of_eq {α : Type} {S : α → α → Prop} {p : Prop} {x x' : α} (h : x = x') : Twin S p x x' := .inl h

section Units

variable {p : Prop} {e e' : Enc} {d d' : Dec} {v v' : Val} {t t' : Tbl} (f : FaultCode)

theorem Enc.Shadow.noMore (h : e.Shadow e') : e.noMore = true ∧ e'.noMore = true :=
  ⟨e.noMore_iff.2 (.inl h.live), e'.noMore_iff.2 (.inl h.live')⟩

theorem Twin.enc_fault (h : Twin Enc.Shadow p e e') : e.com.fault = e'.com.fault :=
  h.elim (· ▸ rfl) (·.2.fault)

theorem Twin.enc_noMore (h : Twin Enc.Shadow p e e') : e.noMore = e'.noMore :=
  h.elim (· ▸ rfl) fun h => h.2.noMore.1.trans h.2.noMore.2.symm

/-- An encoder that has more is live, so its twin is the same. -/
theorem Twin.enc_eq (h : Twin Enc.Shadow p e e') (hm : e.noMore = false) : e = e' :=
  h.resolve_right fun h => by simp [h.2.noMore.1] at hm

theorem Twin.enc_raise (h : Twin Enc.Shadow p e e') :
    Twin Enc.Shadow p { e with com := e.com.raise f } { e' with com := e'.com.raise f } := by
  obtain rfl | ⟨hp, hl, hl', hf, h1, h2, h3⟩ := h
  · exact .of_eq rfl
  · exact .inr ⟨hp, hl, hl', congrArg (·.latch f) hf, h1, h2, h3⟩

theorem Twin.dec_needPrime (h : Twin Dec.Shadow p d d') : d.needPrime = d'.needPrime :=
  h.elim (· ▸ rfl) fun h => h.2.idle.trans h.2.idle'.symm

theorem Twin.dec_src (h : Twin Dec.Shadow p d d') : d.src = d'.src :=
  h.elim (· ▸ rfl) (·.2.src)

/-- A busy decoder is the same in both. -/
theorem Twin.dec_eq_of_busy (h : Twin Dec.Shadow p d d') (hb : d.needPrime = true) : d = d' :=
  h.resolve_right fun h => by simp [h.2.idle] at hb

theorem Twin.val_fault (h : Twin Val.Shadow p v v') : v.com.fault = v'.com.fault :=
  h.elim (· ▸ rfl) (·.2.fault)

theorem Twin.val_live (h : Twin Val.Shadow p v v') : v.com.live = v'.com.live :=
  h.elim (· ▸ rfl) fun h => h.2.live.trans h.2.live'.symm

theorem Twin.val_src (h : Twin Val.Shadow p v v') : v.src = v'.src :=
  h.elim (· ▸ rfl) (·.2.src)

/-- A live validator is the same in both. -/
theorem Twin.val_eq_of_live (h : Twin Val.Shadow p v v') (hl : v.com.live = true) : v = v' :=
  h.resolve_right fun h => by simp [h.2.live] at hl

theorem Twin.enc_src (h : Twin Enc.Shadow p e e') : e.src = e'.src :=
  h.elim (· ▸ rfl) (·.2.src)

theorem Twin.dec_raise (h : Twin Dec.Shadow p d d') :
    Twin Dec.Shadow p { d with com := d.com.raise f } { d' with com := d'.com.raise f } := by
  obtain rfl | ⟨hp, hl, hl', hi, hi', hf, h1, h2⟩ := h
  · exact .of_eq rfl
  · exact .inr ⟨hp, hl, hl', hi, hi', congrArg (·.latch f) hf, h1, h2⟩

theorem Twin.val_raise (h : Twin Val.Shadow p v v') :
    Twin Val.Shadow p { v with com := v.com.raise f } { v' with com := v'.com.raise f } := by
  obtain rfl | ⟨hp, hl, hl', hf, h1, h2, h3, h4⟩ := h
  · exact .of_eq rfl
  · exact .inr ⟨hp, hl, hl', congrArg (·.latch f) hf, h1, h2, h3, h4⟩

theorem Twin.tbl_raise (h : Twin Tbl.Shadow p t t') :
    Twin Tbl.Shadow p { t with com := t.com.raise f } { t' with com := t'.com.raise f } := by
  obtain rfl | ⟨hp, hl, hl', hf⟩ := h
  · exact .of_eq rfl
  · exact .inr ⟨hp, hl, hl', congrArg (·.latch f) hf⟩

end Units

/-! ### States that differ within a slack -/

/-- What two states may differ in: `free` units at will, `hidden` ones in what reset leaves unspecified while they are not
live; the units of a type that is `whole` are compared as lists. -/
structure Slack where
  free : UnitKind → Nat → Prop
  hidden : UnitKind → Nat → Prop
  whole : UnitKind → Prop
  shown : ∀ u n, whole u → ¬hidden u n

/-- The units of one type, number by number, and as lists if `whole`. -/
structure ListTwin {α : Type} (S : α → α → Prop) (dflt : α) (free hidden : Nat → Prop) (whole : Prop) (l l' : List α) :
    Prop where
  get : ∀ n, ¬free n → Twin S (hidden n) (unitGet dflt l n) (unitGet dflt l' n)
  list : whole → l = l'

theorem ListTwin.set {α : Type} {S : α → α → Prop} {dflt : α} {free hidden : Nat → Prop} {whole : Prop} {l l' : List α}
    (h : ListTwin S dflt free hidden whole l l') (hs : ∀ n, whole → ¬hidden n) {n : Nat} {x x' : α}
    (hx : Twin S (hidden n) x x') : ListTwin S dflt free hidden whole (unitSet dflt l n x) (unitSet dflt l' n x') := by
  refine ⟨fun m hm => ?_, fun hw => ?_⟩
  · by_cases hn : m = n
    · subst hn
      simpa using hx
    · simpa only [unitGet_unitSet_other _ _ hn] using h.get m hm
  · obtain rfl := hx.resolve_right fun hx => hs n hw hx.1
    rw [h.list hw]

/-- Two states alike within the slack, in the driven number, the recorded outcome and the count of clock edges too. -/
structure State.Twins (F : Slack) (s s' : State) : Prop where
  encs : ListTwin Enc.Shadow Enc.reset (F.free .enc) (F.hidden .enc) (F.whole .enc) s.encs s'.encs
  decs : ListTwin Dec.Shadow Dec.reset (F.free .dec) (F.hidden .dec) (F.whole .dec) s.decs s'.decs
  vals : ListTwin Val.Shadow Val.reset (F.free .val) (F.hidden .val) (F.whole .val) s.vals s'.vals
  tbls : ListTwin Tbl.Shadow Tbl.reset (F.free .tbl) (F.hidden .tbl) (F.whole .tbl) s.tbls s'.tbls
  port : s.port = s'.port
  ret : s.ret = s'.ret
  tick : s.tick = s'.tick

variable {F : Slack} {s s' : State} {n : Nat}

section Twins

variable (h : State.Twins F s s')
include h

theorem State.Twins.enc (hn : ¬F.free .enc n) : Twin Enc.Shadow (F.hidden .enc n) (s.enc n) (s'.enc n) :=
  h.encs.get n hn

theorem State.Twins.dec (hn : ¬F.free .dec n) : Twin Dec.Shadow (F.hidden .dec n) (s.dec n) (s'.dec n) :=
  h.decs.get n hn

theorem State.Twins.val (hn : ¬F.free .val n) : Twin Val.Shadow (F.hidden .val n) (s.val n) (s'.val n) :=
  h.vals.get n hn

theorem State.Twins.tbl (hn : ¬F.free .tbl n) : Twin Tbl.Shadow (F.hidden .tbl n) (s.tbl n) (s'.tbl n) :=
  h.tbls.get n hn

/-! ### Writing a unit -/

theorem State.Twins.withRet (r : Ret) : Twins F (s.withRet r) (s'.withRet r) :=
  ⟨h.encs, h.decs, h.vals, h.tbls, h.port, rfl, h.tick⟩

theorem State.Twins.nextEdge : Twins F s.nextEdge s'.nextEdge :=
  ⟨h.encs, h.decs, h.vals, h.tbls, h.port, h.ret, congrArg (· + 1) h.tick⟩

theorem State.Twins.setEnc {e e' : Enc} (he : Twin Enc.Shadow (F.hidden .enc n) e e') :
    Twins F (s.setEnc n e) (s'.setEnc n e') :=
  ⟨h.encs.set (F.shown _) he, h.decs, h.vals, h.tbls, h.port, h.ret, h.tick⟩

theorem State.Twins.setDec {d d' : Dec} (hd : Twin Dec.Shadow (F.hidden .dec n) d d') :
    Twins F (s.setDec n d) (s'.setDec n d') :=
  ⟨h.encs, h.decs.set (F.shown _) hd, h.vals, h.tbls, h.port, h.ret, h.tick⟩

theorem State.Twins.setVal {v v' : Val} (hv : Twin Val.Shadow (F.hidden .val n) v v') :
    Twins F (s.setVal n v) (s'.setVal n v') :=
  ⟨h.encs, h.decs, h.vals.set (F.shown _) hv, h.tbls, h.port, h.ret, h.tick⟩

theorem State.Twins.setTbl {t t' : Tbl} (ht : Twin Tbl.Shadow (F.hidden .tbl n) t t') :
    Twins F (s.setTbl n t) (s'.setTbl n t') :=
  ⟨h.encs, h.decs, h.vals, h.tbls.set (F.shown _) ht, h.port, h.ret, h.tick⟩

theorem State.Twins.raise {u : UnitKind} (hn : ¬F.free u n) (f : FaultCode) :
    Twins F (s.raise u n f) (s'.raise u n f) := by
  refine Twins.withRet ?_ _
  cases u with
  | enc => exact h.setEnc ((h.enc hn).enc_raise f)
  | dec => exact h.setDec ((h.dec hn).dec_raise f)
  | val => exact h.setVal ((h.val hn).val_raise f)
  | tbl => exact h.setTbl ((h.tbl hn).tbl_raise f)

/-! ### Along a wire -/

theorem State.Twins.encEmpty (hn : ¬F.free .enc n) : s.encEmpty n = s'.encEmpty n := by
  simp only [State.encEmpty, (h.enc hn).enc_fault, (h.enc hn).enc_noMore, h.tick]

theorem State.Twins.encFront (hn : ¬F.free .enc n) : s.encFront n = s'.encFront n := by
  cases hm : (s.enc n).noMore
  · simp only [State.encFront, (h.enc hn).enc_eq hm, h.tick]
  · have hm' := (h.enc hn).enc_noMore.symm.trans hm
    simp only [State.encFront, hm, hm', or_true, if_true, h.tick]

theorem State.Twins.wireAdvance (hn : ¬F.free .enc n) : Twins F (s.wireAdvance n) (s'.wireAdvance n) := by
  have he := h.enc hn
  simp only [State.wireAdvance, he.enc_fault, he.enc_noMore]
  split_ifs with _ hm
  · exact h
  · exact h.setEnc (he.enc_raise _)
  · exact h.setEnc (.of_eq (congrArg Enc.advanced (he.enc_eq (he.enc_noMore.trans (by simpa using hm)))))

variable {w : Wire} (hw : w.Within fun u k => ¬F.free u k)
include hw

theorem State.Twins.wireEmpty : s.wireEmpty w = s'.wireEmpty w := by
  cases w with
  | stream src => rfl
  | encoder k => exact h.encEmpty (hw k rfl)

theorem State.Twins.wireFront : s.wireFront w = s'.wireFront w := by
  cases w with
  | stream src => rfl
  | encoder k => exact congrArg zext8 (h.encFront (hw k rfl))

theorem State.Twins.wirePop : Twins F (s.wirePop w) (s'.wirePop w) := by
  cases w with
  | stream src => exact h
  | encoder k => exact h.wireAdvance (hw k rfl)

theorem State.Twins.head (c : Common) : s.head c w = s'.head c w := by
  simp only [State.head, h.wireEmpty hw, h.wireFront hw]

end Twins

/-! ### A decoder that is the same in both -/

section SameDecoder

variable (h : State.Twins F s s') (hd : s.dec n = s'.dec n) (hw : (s.dec n).src.Within fun u k => ¬F.free u k)
include h hd hw

theorem State.Twins.decHead : s.decHead n = s'.decHead n := by
  rw [State.decHead, State.decHead, ← hd]
  exact h.head hw _

theorem State.Twins.decTake (c : Idx) : Twins F (s.decTake n c) (s'.decTake n c) := by
  rw [State.decTake, State.decTake, ← hd]
  exact (h.wirePop hw).setDec (.of_eq rfl)

theorem State.Twins.prime : Twins F (s.prime n) (s'.prime n) := by
  have hhead := h.decHead hd hw
  obtain ⟨c, hc, e⟩ | ⟨hc, e⟩ := s.prime_cases n
  · rw [e, s'.prime_data n (hhead ▸ hc)]
    exact h.decTake hd hw c
  · rw [e, s'.prime_else n (hhead ▸ hc)]
    exact h

theorem State.Twins.prime_dec : (s.prime n).dec n = (s'.prime n).dec n := by
  have hhead := h.decHead hd hw
  obtain ⟨c, hc, e⟩ | ⟨hc, e⟩ := s.prime_cases n
  · rw [e, s'.prime_data n (hhead ▸ hc)]
    simp [State.decTake, hd]
  · rw [e, s'.prime_else n (hhead ▸ hc), hd]

theorem State.Twins.primeEdge : Twins F (s.primeEdge n) (s'.primeEdge n) := by
  rw [State.primeEdge, State.primeEdge, ← h.prime_dec hd hw]
  exact (h.prime hd hw).setDec (.of_eq rfl)

theorem State.Twins.owePrime (pinLevel : Bool) : Twins F (s.owePrime n pinLevel) (s'.owePrime n pinLevel) := by
  cases pinLevel
  · exact h.nextEdge.prime (n := n) hd hw
  · exact h.setDec (.of_eq (by rw [hd]))

theorem State.Twins.decAdvanced (c : Idx) (pinLevel : Bool) :
    Twins F (s.decAdvanced n c pinLevel) (s'.decAdvanced n c pinLevel) := by
  have consumed (p : Fin 3) : Twins F (decConsumed s n c p) (decConsumed s' n c p) := by
    rw [decConsumed, decConsumed, ← hd]
    exact (h.wirePop hw).setDec (.of_eq rfl)
  by_cases hp : (s.dec n).pos = 2
  · have hwrap : Twins F ((decConsumed s n c 0).owePrime n pinLevel) ((decConsumed s' n c 0).owePrime n pinLevel) := by
      refine (consumed 0).owePrime (by simp [hd]) (fun k hk => hw k ?_) pinLevel
      rw [decConsumed_dec] at hk
      cases hsrc : (s.dec n).src <;> simp_all [Wire.popped]
    simpa [State.decAdvanced, decConsumed, hp, ← hd] using hwrap
  · rw [State.decAdvanced_inside hp, State.decAdvanced_inside (hd ▸ hp), ← hd]
    exact consumed _

end SameDecoder

/-! ### Commands -/

/-- What a construction leaves in the common registers hangs on no register. -/
theorem Common.build_congr (c c' : Common) {cfg : CfgPins} {tick : Nat} {u : UnitKind} :
    c.build cfg tick u n = c'.build cfg tick u n := by
  cases h : cfg.ok
  · rw [c.build_fail _ _ _ _ h, c'.build_fail _ _ _ _ h]
  · rw [c.build_ok _ _ _ _ h, c'.build_ok _ _ _ _ h]

section Commands

variable (h : State.Twins F s s')
include h

theorem State.Twins.encStrobe {k k' : Enc → State} (hn : ¬F.free .enc s.port)
    (hk : s.enc s.port = s'.enc s.port → Twins F (k (s.enc s.port)) (k' (s.enc s.port))) :
    Twins F (s.encStrobe k) (s'.encStrobe k') := by
  have he := h.enc hn
  simp only [State.encStrobe, ← h.port, he.enc_fault, he.enc_noMore]
  split_ifs with _ hm
  · exact h.withRet _
  · exact h.raise hn _
  · have heq := he.enc_eq (he.enc_noMore.trans (by simpa using hm))
    exact heq ▸ hk heq

variable (hn : ¬F.free .dec s.port) (hw : (s.dec s.port).src.Within fun u k => ¬F.free u k)
include hn hw

theorem State.Twins.decStrobe {rd : Bool} {k k' : Dec → Idx → State}
    (hk : ∀ c, s.dec s.port = s'.dec s.port → Twins F (k (s.dec s.port) c) (k' (s.dec s.port) c)) :
    Twins F (s.decStrobe rd k) (s'.decStrobe rd k') := by
  obtain hd | ⟨-, hd⟩ := h.dec hn
  · simp only [State.decStrobe, ← h.port, ← hd, ← h.decHead hd hw]
    split
    · have primed := h.primeEdge hd hw
      cases rd
      · exact primed
      · simp only [State.primeEdgeRead, ← h.tick]
        exact primed.withRet _
    · split
      · exact h.withRet _
      · split
        · exact h.raise hn _
        · split
          · exact h.raise hn _
          · exact h.raise hn _
          · exact h.raise hn _
          · exact hk _ hd
  · simp only [State.decStrobe, ← h.port, hd.idle, hd.idle', hd.live, hd.live', ← hd.fault]
    simp only [Bool.false_eq_true, if_false, if_true]
    split
    · exact h.withRet _
    · exact h.raise hn _

theorem State.Twins.decConstruct (hcfg : s.cfg = s'.cfg) (pinLevel : Bool) :
    Twins F (s.decConstruct pinLevel) (s'.decConstruct pinLevel) := by
  have hd := h.dec hn
  cases hb : (s.dec s.port).needPrime
  · have hb' : (s'.dec s'.port).needPrime = false := h.port ▸ hd.dec_needPrime.symm.trans hb
    cases ha : accepted s
    · rw [State.decConstruct_not_accepted hb ha, State.decConstruct_not_accepted hb' (accepted_congr hcfg ▸ ha),
        Common.build_congr _ (s.dec s.port).com, ← hcfg, ← h.port, ← h.tick, ← hd.dec_src]
      exact (h.setDec (.of_eq rfl)).withRet _
    · rw [State.decConstruct_accepted hb ha, State.decConstruct_accepted hb' (accepted_congr hcfg ▸ ha),
        ← built_congr hcfg, ← h.port, ← hd.dec_src]
      refine ((h.setDec (.of_eq rfl)).owePrime ?_ ?_ pinLevel).withRet _
      · rw [State.setDec_dec_same, State.setDec_dec_same]
      · rwa [State.setDec_dec_same]
  · have heq := hd.dec_eq_of_busy hb
    simp only [State.decConstruct, ← h.port, ← heq, hb, if_true]
    exact h.primeEdge heq hw

end Commands

/-- `STEP` reads the validator, and the encoder behind it if the validator is live. -/
theorem execValStep_twins {t t' : State} (h : State.Twins F s s') (hn : ¬F.free .val s.port)
    (hw : (s.val s.port).src.Within fun u k => ¬F.free u k) (ht : execValStep s = .next t)
    (ht' : execValStep s' = .next t') : State.Twins F t t' := by
  have hv := h.val hn
  simp only [execValStep, ← h.port, ← hv.val_fault, ← hv.val_live, ← hv.val_src] at ht ht'
  cases ht
  cases ht'
  split_ifs with _ hl
  · exact h.withRet _
  · exact h.raise hn _
  · have heq := hv.val_eq_of_live (by simpa using hl)
    rw [← heq, ← h.head hw]
    split
    · exact h.raise hn _
    · exact ((h.wirePop hw).setVal (.of_eq rfl)).withRet _

/-- The meaning of every operation is the same in both, if the command reaches no unit that differs at will, and the pins
are the same where it reads them. -/
theorem exec_twins {i : Instr} {t t' : State} (h : State.Twins F s s') (hcfg : constructs i = true → s.cfg = s'.cfg)
    (hfree : ∀ u n, Reaches s i u n → ¬F.free u n) (ht : exec i s = .next t) (ht' : exec i s' = .next t') :
    State.Twins F t t' := by
  have hn : ¬F.free i.unit s.port := hfree _ _ (.inl ⟨rfl, rfl⟩)
  have hwdec (hi : i.unit = .dec) : (s.dec s.port).src.Within fun u k => ¬F.free u k :=
    fun k hk => hfree _ _ (.inr ⟨rfl, .inl ⟨hi, hk⟩⟩)
  cases i with
  | encNop | valNop | tblNop =>
    cases ht
    cases ht'
    exact h.withRet _
  | encFront =>
    cases ht
    cases ht'
    exact h.encStrobe hn fun heq => h.withRet _
  | encAdvance | encPop =>
    cases ht
    cases ht'
    refine h.encStrobe hn fun heq => ?_
    rw [← h.port]
    exact (h.setEnc (.of_eq rfl)).withRet _
  | encConstruct =>
    cases ht
    cases ht'
    have heq := h.enc hn
    simp only [← h.port, ← hcfg rfl, ← h.tick, Common.build_congr (s'.enc s.port).com (s.enc s.port).com]
    refine (h.setEnc (.of_eq ?_)).withRet _
    split <;> simp [Enc.cursorReset, heq.enc_src]
  | decNop =>
    cases ht
    cases ht'
    have hd := h.dec hn
    rw [← h.port, ← hd.dec_needPrime]
    split
    · next hb => exact h.primeEdge (hd.dec_eq_of_busy hb) (hwdec rfl)
    · exact h.withRet _
  | decFront =>
    cases ht
    cases ht'
    exact h.decStrobe hn (hwdec rfl) fun c heq => h.withRet _
  | decAdvance | decPop =>
    cases ht
    cases ht'
    refine h.decStrobe hn (hwdec rfl) fun c heq => ?_
    rw [← h.port]
    exact (h.decAdvanced heq (hwdec rfl) c false).withRet _
  | decConstruct =>
    cases ht
    cases ht'
    exact h.decConstruct hn (hwdec rfl) (hcfg rfl) false
  | valStep =>
    exact execValStep_twins h hn (fun k hk => hfree _ _ (.inr ⟨rfl, .inr ⟨rfl, hk⟩⟩)) ht ht'
  | valConstruct =>
    cases ht
    cases ht'
    simp only [← h.port, ← hcfg rfl, ← h.tick, Common.build_congr (s'.val s.port).com (s.val s.port).com]
    refine (h.setVal (.of_eq ?_)).withRet _
    simp [Val.cursorReset, (h.val hn).val_src]
  | tblBuild =>
    cases ht
    cases ht'
    simp only [← h.port, ← hcfg rfl, ← h.tick, Common.build_congr (s'.tbl s.port).com (s.tbl s.port).com]
    exact (h.setTbl (.of_eq rfl)).withRet _

/-- And so is that of every clock edge. -/
theorem edge_twins {i : Instr} {t t' : State} (h : State.Twins F s s') (hcfg : constructs i = true → s.cfg = s'.cfg)
    (hfree : ∀ u n, Reaches s i u n → ¬F.free u n) (ht : edge i s = .next t) (ht' : edge i s' = .next t') :
    State.Twins F t t' := by
  have hn : ¬F.free i.unit s.port := hfree _ _ (.inl ⟨rfl, rfl⟩)
  have hwdec (hi : i.unit = .dec) : (s.dec s.port).src.Within fun u k => ¬F.free u k :=
    fun k hk => hfree _ _ (.inr ⟨rfl, .inl ⟨hi, hk⟩⟩)
  cases i with
  | decAdvance | decPop =>
    cases ht
    cases ht'
    refine h.decStrobe hn (hwdec rfl) fun c heq => ?_
    rw [← h.port]
    exact (h.decAdvanced heq (hwdec rfl) c true).withRet _
  | decConstruct =>
    cases ht
    cases ht'
    exact h.decConstruct hn (hwdec rfl) (hcfg rfl) true
  | _ => exact exec_twins h hcfg hfree ht ht'

end Sys2Proof.Machine
end

section
/-! What a command's outcome hangs on (rules R39, R40, R77, R242): instances of `exec_twins` for a slack each. -/

namespace Sys2Proof.Machine

open Sys2Proof.Claims

variable {s s' t t' : State} {i : Instr} {n : Nat}

theorem ListTwin.refl {α : Type} {S : α → α → Prop} {dflt : α} {free hidden : Nat → Prop} {whole : Prop} (l : List α) :
    ListTwin S dflt free hidden whole l l := ⟨fun _ _ => .of_eq rfl, fun _ => rfl⟩

/-- A unit written in one of the two states only. -/
theorem ListTwin.set_right {α : Type} {S : α → α → Prop} {dflt : α} {free hidden : Nat → Prop} {whole : Prop}
    {l : List α} {x : α} (hw : ¬whole) (hx : Twin S (hidden n) (unitGet dflt l n) x) :
    ListTwin S dflt free hidden whole l (unitSet dflt l n x) := by
  refine ⟨fun m _ => ?_, (absurd · hw)⟩
  by_cases hm : m = n
  · subst hm
    simpa using hx
  · exact .of_eq (unitGet_unitSet_other _ _ hm).symm

/-! ### The configuration pins -/

/-- No unit differs. -/
def Slack.nothing : Slack := ⟨fun _ _ => False, fun _ _ => False, fun _ => True, fun _ _ _ h => h⟩

/-- Two states without slack differ in the pending inputs and the pins at most. -/
theorem State.Twins.eq_of_nothing (h : State.Twins .nothing t t') :
    t' = { t with inbox := t'.inbox, cfg := t'.cfg } := by
  have he : t.encs = t'.encs := h.encs.list trivial
  have hd : t.decs = t'.decs := h.decs.list trivial
  have hv : t.vals = t'.vals := h.vals.list trivial
  have hb : t.tbls = t'.tbls := h.tbls.list trivial
  rw [he, hd, hv, hb, h.port, h.ret, h.tick]

/-- Settles O14: the pins are outside the slack, so a command that does not construct leaves them the only difference. -/
theorem configurationPinsAreReadByConstructionOnly : Obligations.ConfigurationPinsAreReadByConstructionOnly := by
  intro i s t g hi ht
  obtain ⟨t', ht'⟩ := exec_next i { s with cfg := g }
  have h : State.Twins .nothing s { s with cfg := g } := ⟨.refl _, .refl _, .refl _, .refl _, rfl, rfl, rfl⟩
  have heq := (exec_twins h (by simp [hi]) (fun _ _ _ h => h) ht ht').eq_of_nothing
  have hinbox : t'.inbox = t.inbox := (exec_confined ht').inbox.trans (exec_confined ht).inbox.symm
  have hcfg : t'.cfg = g := (exec_confined ht').cfg
  rw [ht', heq, hinbox, hcfg]

/-! ### The driven unit -/

/-- Every unit that the command does not reach may differ at will. -/
def Slack.beyond (s : State) (i : Instr) : Slack :=
  ⟨fun u n => ¬Reaches s i u n, fun _ _ => False, fun _ => False, fun _ _ h => h.elim⟩

theorem ListTwin.beyond {α : Type} {S : α → α → Prop} {dflt : α} {A : Nat → Prop} {l l' : List α}
    (h : ∀ n, A n → unitGet dflt l n = unitGet dflt l' n) :
    ListTwin S dflt (fun n => ¬A n) (fun _ => False) False l l' :=
  ⟨fun n hn => .of_eq (h n (not_not.1 hn)), False.elim⟩

/-- Along the wire a decoder's or validator's command reaches one encoder more. -/
theorem reaches_enc_iff : Reaches s i .enc n ↔ i.unit = .enc ∧ s.port = n ∨
    (i.unit = .dec ∧ (s.dec s.port).src = .encoder n ∨ i.unit = .val ∧ (s.val s.port).src = .encoder n) := by
  simp [Reaches, Drives]

theorem reaches_iff {u : UnitKind} (hu : u ≠ .enc) : Reaches s i u n ↔ i.unit = u ∧ s.port = n := by
  simp [Reaches, Drives, hu]

/-- A unit that the command reaches is the same after it, if everything it reaches is before it. -/
theorem exec_twins_beyond (hp : s.port = s'.port) (hc : s.cfg = s'.cfg) (hk : s.tick = s'.tick) (hr : s.ret = s'.ret)
    (ht : exec i s = .next t) (ht' : exec i s' = .next t') (he : ∀ n, Reaches s i .enc n → s.enc n = s'.enc n)
    (hd : i.unit = .dec → s.dec s.port = s'.dec s.port) (hv : i.unit = .val → s.val s.port = s'.val s.port)
    (hb : i.unit = .tbl → s.tbl s.port = s'.tbl s.port) : State.Twins (.beyond s i) t t' := by
  have driven {u : UnitKind} {α : Type} {f g : Nat → α} (hu : u ≠ .enc) (h : i.unit = u → f s.port = g s.port) :
      ∀ n, Reaches s i u n → f n = g n := fun n hn => by
    obtain ⟨hi, rfl⟩ := (reaches_iff hu).1 hn
    exact h hi
  have h : State.Twins (.beyond s i) s s' :=
    ⟨.beyond he, .beyond (driven (by decide) hd), .beyond (driven (by decide) hv), .beyond (driven (by decide) hb), hp, hr, hk⟩
  exact exec_twins h (fun _ => hc) (fun _ _ hn => not_not.2 hn) ht ht'

/-- Settles O53: what the command reaches is the driven unit and the encoder behind it. -/
theorem outcomeDependsOnTheDrivenUnitAlone : Obligations.OutcomeDependsOnTheDrivenUnitAlone := by
  intro i s s' t t' hp hc hk hr ht ht'
  have twins := exec_twins_beyond hp hc hk hr ht ht'
  have same {α : Type} {S : α → α → Prop} {x x' : α} (h : Twin S False x x') : x = x' := h.resolve_right (·.1)
  have driven {u : UnitKind} (hi : i.unit = u) : ¬¬Reaches s i u s.port := not_not.2 (.inl ⟨hi, rfl⟩)
  refine ⟨fun hi he => ?_, fun hi hd he => ?_, fun hi hv he => ?_, fun hi hb => ?_⟩
  · have h := twins (fun n hn => by simp [reaches_enc_iff, hi] at hn; exact hn ▸ he) (by simp [hi]) (by simp [hi])
      (by simp [hi])
    exact ⟨h.ret, same (h.enc (driven hi))⟩
  · have h := twins (fun n hn => he n (by simpa [reaches_enc_iff, hi] using hn)) (fun _ => hd) (by simp [hi]) (by simp [hi])
    exact ⟨h.ret, same (h.dec (driven hi)), h.tick, fun k hk => same (h.enc (not_not.2 (.inr ⟨rfl, .inl ⟨hi, hk⟩⟩)))⟩
  · have h := twins (fun n hn => he n (by simpa [reaches_enc_iff, hi] using hn)) (by simp [hi]) (fun _ => hv) (by simp [hi])
    exact ⟨h.ret, same (h.val (driven hi)), fun k hk => same (h.enc (not_not.2 (.inr ⟨rfl, .inr ⟨hi, hk⟩⟩)))⟩
  · have h := twins (fun n hn => by simp [reaches_enc_iff, hi] at hn) (by simp [hi]) (by simp [hi]) (fun _ => hb)
    exact ⟨h.ret, same (h.tbl (driven hi))⟩

/-! ### One unit after reset -/

/-- One unit may differ in what reset leaves unspecified. -/
def Slack.one (u : UnitKind) (n : Nat) : Slack :=
  ⟨fun _ _ => False, fun v m => v = u ∧ m = n, fun v => v ≠ u, fun _ _ hv h => hv h.1⟩

theorem Twin.eq_of_not {α : Type} {S : α → α → Prop} {p : Prop} {x x' : α} (h : Twin S p x x') (hp : ¬p) : x = x' :=
  h.resolve_right fun h => hp h.1

/-- Settles O54: with the unit not live the two states are twins, and stay so. -/
theorem unspecifiedRegistersAreNotObserved : Obligations.UnspecifiedRegistersAreNotObserved := by
  refine ⟨fun i s t t' n p a b q hl ht ht' => ?_, fun i s t t' n p a b q hl hb ht ht' => ?_⟩
  · have h : State.Twins (.one .enc n) s (s.setEnc n
        { s.enc n with prev := p, com := { (s.enc n).com with c62 := a, c63 := b, cpad := q } }) :=
      ⟨.set_right (by simp [Slack.one]) (.inr ⟨⟨rfl, rfl⟩, hl, hl, rfl, rfl, rfl, rfl⟩), .refl _, .refl _, .refl _,
        rfl, rfl, rfl⟩
    have h' := exec_twins h (fun _ => rfl) (fun _ _ _ h => h) ht ht'
    refine ⟨h'.ret, h'.decs.list nofun, h'.vals.list nofun, h'.tbls.list nofun, ?_⟩
    have others (m : Nat) (hm : m ≠ n) : t.enc m = t'.enc m := (h'.enc id).eq_of_not fun hs => hm hs.2
    obtain he | ⟨-, he⟩ := h'.enc (n := n) id
    · rw [he]
      exact ⟨rfl, rfl, rfl, rfl, rfl, others, fun _ => rfl⟩
    · exact ⟨he.live.trans he.live'.symm, he.fault, he.pos, he.pad, he.src, others, fun hl => by simp [he.live] at hl⟩
  · have h : State.Twins (.one .dec n) s (s.setDec n
        { s.dec n with prev := p, com := { (s.dec n).com with c62 := a, c63 := b, cpad := q } }) :=
      ⟨.refl _, .set_right (by simp [Slack.one]) (.inr ⟨⟨rfl, rfl⟩, hl, hl, hb, hb, rfl, rfl, rfl⟩), .refl _, .refl _,
        rfl, rfl, rfl⟩
    have h' := exec_twins h (fun _ => rfl) (fun _ _ _ h => h) ht ht'
    refine ⟨h'.ret, h'.encs.list nofun, h'.vals.list nofun, h'.tbls.list nofun, ?_⟩
    have others (m : Nat) (hm : m ≠ n) : t.dec m = t'.dec m := (h'.dec id).eq_of_not fun hs => hm hs.2
    obtain hd | ⟨-, hd⟩ := h'.dec (n := n) id
    · rw [hd]
      exact ⟨rfl, rfl, rfl, rfl, rfl, others, fun _ => rfl⟩
    · exact ⟨hd.live.trans hd.live'.symm, hd.fault, hd.pos, hd.idle.trans hd.idle'.symm, hd.src, others,
        fun hl => by simp [hd.live] at hl⟩

end Sys2Proof.Machine
end

section
/-! The invariant of the machine (rules R27, R28, R30, R38, R40, R123, R221, R272). It is said of the unit of every number and
of the wires port by port (`State.Sound`); a command keeps it on the unit it is driven on, by what that unit can become, and
on the encoder behind it, by `Enc.Stable`. -/

namespace Sys2Proof.Machine

open Sys2Proof.Claims

variable {s t : State} {i : Instr} {n : Nat}

/-! ### The invariant by number -/

/-- A property of the reset unit is one of every listed unit exactly if it is one of the unit of every number. -/
theorem forall_mem_iff_unitGet {α : Type} {dflt : α} {P : α → Prop} (h0 : P dflt) {l : List α} :
    (∀ x ∈ l, P x) ↔ ∀ n, P (unitGet dflt l n) := by
  refine ⟨fun h => unitGet_of_all h0 h, fun h => ?_⟩
  induction l with
  | nil => simp
  | cons x l ih => exact List.forall_mem_cons.2 ⟨h 0, ih fun n => h (n + 1)⟩

/-- The invariant, of the unit of every number and of every source port. -/
structure State.Sound (s : State) : Prop where
  enc : ∀ n, (s.enc n).Inv
  dec : ∀ n, (s.dec n).Inv
  val : ∀ n, (s.val n).Inv
  tbl : ∀ n, (s.tbl n).Inv
  alone : ∀ k p p', s.WiredTo p k → s.WiredTo p' k → p = p'

theorem State.inv_iff_sound : s.Inv ↔ s.Sound := by
  rw [State.Inv, s.oneDriver_iff, forall_mem_iff_unitGet (dflt := Enc.reset) (by decide),
    forall_mem_iff_unitGet (dflt := Dec.reset) (by decide), forall_mem_iff_unitGet (dflt := Val.reset) (by decide),
    forall_mem_iff_unitGet (dflt := Tbl.reset) (by decide)]
  exact ⟨fun ⟨he, hd, hv, ht, ha⟩ => ⟨he, hd, hv, ht, ha⟩, fun ⟨he, hd, hv, ht, ha⟩ => ⟨he, hd, hv, ht, ha⟩⟩

/-! ### The common registers -/

theorem Common.inv_built (h : accepted s = true) : (built s).Inv := fun _ => ⟨cfgOk_built h, nofun⟩

theorem Common.inv_of_not_live {c : Common} (h : c.live = false) : c.Inv := fun hl => by simp [h] at hl

theorem Common.Inv.fault {c : Common} (h : c.Inv) {f : FaultCode} (hf : f ≠ .config) : ({ c with fault := f } : Common).Inv :=
  fun hl => ⟨(h hl).1, hf⟩

/-! ### The encoder -/

/-- Faults and advances keep an encoder's invariant: it advances only while it is live (rules R27, R221). -/
theorem Enc.stable_inv : Enc.Stable Enc.Inv where
  premature := fun e hf _ ⟨hc, _, hp, hd⟩ => by
    rw [Common.raise_of_unfaulted hf]
    exact ⟨hc.fault nofun, nofun, hp, hd⟩
  advanced := fun e hf hm ⟨hc, hm', hp, _⟩ => by
    have hl : e.com.live = true := by
      by_contra hl
      simp [e.noMore_iff.2 (.inl (by simpa using hl))] at hm
    rw [Enc.Inv, Enc.advanced_com]
    exact ⟨hc, hm', Enc.stable_pad.advanced e hf hm hp, fun hl' => by simp [hl] at hl'⟩

/-- What a construction makes of an encoder, from any state: its cursor starts afresh (rules R123, R142). -/
theorem exec_encConstruct_enc {rd adv : Bool} (ht : exec (.encConstruct rd adv) s = .next t) :
    ∃ c p, t.enc s.port = ⟨c, 0, p, false, (s.enc s.port).src⟩ ∧ (accepted s = true ∧ c = built s ∨ Unbuilt c) := by
  obtain ⟨hacc, hrej⟩ := encoderConstruction s rd adv
  cases h : accepted s
  · obtain ⟨c, p, hc, e⟩ := hrej h
    cases e.symm.trans ht
    exact ⟨c, p, State.setEnc_enc_same _ _ _, .inr hc⟩
  · cases (hacc h).symm.trans ht
    exact ⟨built s, 0#8, State.setEnc_enc_same _ _ _, .inl ⟨rfl, rfl⟩⟩

/-- So a construction establishes the invariant of the encoder. -/
theorem exec_encConstruct_inv {rd adv : Bool} (ht : exec (.encConstruct rd adv) s = .next t) : (t.enc s.port).Inv := by
  obtain ⟨c, p, e, ⟨h, rfl⟩ | ⟨hl, hf⟩⟩ := exec_encConstruct_enc ht <;> rw [e]
  · exact ⟨Common.inv_built h, nofun, nofun, nofun⟩
  · exact ⟨Common.inv_of_not_live hl, by simp [hf], nofun, fun _ => ⟨rfl, rfl⟩⟩

/-- Every command keeps the invariant of every encoder. -/
theorem enc_inv_of_command (h : (s.enc n).Inv) (ht : exec i s = .next t ∨ edge i s = .next t) : (t.enc n).Inv := by
  by_cases hc : constructs i = true ∧ Drives s i .enc n
  · obtain ⟨hc, hi, rfl⟩ := hc
    rw [edge_eq_exec (by simp [hi]), or_self] at ht
    cases i <;> cases hi <;> cases hc
    exact exec_encConstruct_inv ht
  · exact ht.elim (exec_stable Enc.stable_inv h · hc) (edge_stable Enc.stable_inv h · hc)

/-! ### The decoder -/

/-- What a decoder's registers can become by a command of its own, at either level, `prev` and the source aside. -/
inductive Dec.Moves (d d' : Dec) : Prop where
  /-- Nothing is written. -/
  | kept (com : d'.com = d.com) (pos : d'.pos = d.pos) (owed : d'.needPrime = d.needPrime)
  /-- A busy decoder primes. -/
  | primed (com : d'.com = d.com) (pos : d'.pos = d.pos) (owed : d'.needPrime = false)
  /-- A fault is raised on an unfaulted decoder that is not busy. -/
  | raised (f : FaultCode) (hf : f = .premature ∨ f = .malformed ∧ d.com.live = true)
      (com : d'.com = { d.com with fault := f }) (pos : d'.pos = d.pos) (owed : d'.needPrime = false)
  /-- A live, unfaulted decoder takes a symbol, and may owe a prime after a wrap. -/
  | advanced (live : d.com.live = true) (fault : d.com.fault = .none) (com : d'.com = d.com)
      (owed : d'.needPrime = true → d'.pos = 0)
  /-- It is constructed. -/
  | built (live : d'.com.live = true) (fault : d'.com.fault = .none) (inv : d'.com.Inv) (pos : d'.pos = 0)
  /-- Its construction fails. -/
  | unbuilt (com : Unbuilt d'.com) (pos : d'.pos = 0) (owed : d'.needPrime = false)

/-- Each of them keeps a decoder's invariant. -/
theorem Dec.Moves.inv {d d' : Dec} (h : d.Moves d') (hd : d.Inv) : d'.Inv := by
  obtain ⟨hc, hm, ho, hl⟩ := hd
  cases h with
  | kept com pos owed => rw [Dec.Inv, com, pos, owed]; exact ⟨hc, hm, ho, hl⟩
  | primed com pos owed =>
    rw [Dec.Inv, com, pos, owed]
    exact ⟨hc, hm, nofun, fun h => ⟨(hl h).1, rfl⟩⟩
  | raised f hf com pos owed =>
    rw [Dec.Inv, com, pos, owed]
    refine ⟨hc.fault (by obtain rfl | ⟨rfl, -⟩ := hf <;> nofun), fun h => ?_, nofun, fun h => ⟨(hl h).1, rfl⟩⟩
    obtain rfl | ⟨-, hlive⟩ := hf
    · cases h
    · exact hlive
  | advanced live fault com owed =>
    rw [Dec.Inv, com]
    exact ⟨hc, hm, fun h => ⟨live, fault, owed h⟩, fun h => by simp [live] at h⟩
  | built live fault inv pos => exact ⟨inv, fun _ => live, fun _ => ⟨live, fault, pos⟩, fun h => by simp [live] at h⟩
  | unbuilt com pos owed =>
    obtain ⟨hl, hf⟩ := com
    exact ⟨Common.inv_of_not_live hl, by simp [hf], by simp [owed], fun _ => ⟨pos, owed⟩⟩

/-- And each of them leaves a decoder that is not live owing no prime, if it owed none. -/
theorem Dec.Moves.idle {d d' : Dec} (h : d.Moves d') (hd : d.com.live = false → d.needPrime = false)
    (hl : d'.com.live = false) : d'.needPrime = false := by
  cases h with
  | kept com _ owed => exact owed.trans (hd (com ▸ hl))
  | primed _ _ owed | raised _ _ _ _ owed | unbuilt _ _ owed => exact owed
  | advanced live _ com _ => simp [com, live] at hl
  | built live _ _ _ => simp [live] at hl

theorem State.moves_primeEdge (s : State) (n : Nat) : (s.dec n).Moves ((s.primeEdge n).dec n) :=
  .primed (by simp [s.primeEdge_other]) (by simp [s.primeEdge_other]) (by simp [s.primeEdge_other])

/-- An advance at either level of a decoder that owes no prime. -/
theorem State.moves_decAdvanced {c : Idx} (pinLevel : Bool) (hb : (s.dec n).needPrime = false)
    (hl : (s.dec n).com.live = true) (hf : (s.dec n).com.fault = .none) :
    (s.dec n).Moves ((s.decAdvanced n c pinLevel).dec n) := by
  by_cases hp : (s.dec n).pos = 2
  · cases pinLevel
    · rw [State.decAdvanced_wrap hp]
      exact .advanced hl hf (by simp [State.prime_other]) (by simp [State.prime_other])
    · refine .advanced hl hf ?_ fun _ => ?_ <;> simp [State.decAdvanced, State.owePrime, hp]
  · rw [State.decAdvanced_inside hp, decConsumed_dec]
    exact .advanced hl hf rfl fun h => by simp [hb] at h

theorem State.moves_decStrobe {rd : Bool} {k : Dec → Idx → State}
    (hk : ∀ c, (s.dec s.port).needPrime = false → (s.dec s.port).com.live = true → (s.dec s.port).com.fault = .none →
      (s.dec s.port).Moves ((k (s.dec s.port) c).dec s.port)) :
    (s.dec s.port).Moves ((s.decStrobe rd k).dec s.port) := by
  have raised (f : FaultCode) (hf : (s.dec s.port).com.fault = .none) (hb : (s.dec s.port).needPrime = false)
      (hfl : f = .premature ∨ f = .malformed ∧ (s.dec s.port).com.live = true) :
      (s.dec s.port).Moves ((s.raise .dec s.port f).dec s.port) := by
    rw [s.raise_dec _ _ hf, State.withRet_dec, State.setDec_dec_same]
    exact .raised f hfl rfl rfl hb
  obtain ⟨-, e⟩ | ⟨hb, ⟨-, e⟩ | ⟨hf, ⟨-, e⟩ | ⟨hl, ⟨-, e⟩ | ⟨-, e⟩ | ⟨c, -, e⟩⟩⟩⟩ := s.decStrobe_cases rd k <;> rw [e]
  · cases rd <;> exact s.moves_primeEdge s.port
  · exact .kept rfl rfl rfl
  · exact raised .premature hf hb (.inl rfl)
  · exact raised .premature hf hb (.inl rfl)
  · exact raised .malformed hf hb (.inr ⟨rfl, hl⟩)
  · exact hk c hb hl hf

theorem State.moves_decConstruct (s : State) (pinLevel : Bool) :
    (s.dec s.port).Moves ((s.decConstruct pinLevel).dec s.port) := by
  cases hb : (s.dec s.port).needPrime
  · cases h : accepted s
    · rw [State.decConstruct_not_accepted hb h, State.withRet_dec, State.setDec_dec_same]
      exact .unbuilt (Common.build_not_accepted _ _ _ _ h) rfl rfl
    · have hd : ((s.decConstruct pinLevel).dec s.port).com = built s ∧ ((s.decConstruct pinLevel).dec s.port).pos = 0 := by
        rw [State.decConstruct_accepted hb h]
        cases pinLevel <;> simp [State.owePrime, State.prime_other]
      exact .built (by rw [hd.1]; rfl) (by rw [hd.1]; rfl) (by rw [hd.1]; exact Common.inv_built h) hd.2
  · rw [State.decConstruct, if_pos hb]
    exact s.moves_primeEdge s.port

/-- What a decoder can become by a command of its own. -/
theorem dec_moves_of_command (hi : i.unit = .dec) (ht : exec i s = .next t ∨ edge i s = .next t) :
    (s.dec s.port).Moves (t.dec s.port) := by
  cases i <;> cases hi
  case decNop =>
    obtain ht | ht := ht <;> cases ht <;> split
    · exact s.moves_primeEdge s.port
    · exact .kept rfl rfl rfl
    · exact s.moves_primeEdge s.port
    · exact .kept rfl rfl rfl
  case decFront => obtain ht | ht := ht <;> cases ht <;> exact State.moves_decStrobe fun _ _ _ _ => .kept rfl rfl rfl
  case decAdvance | decPop =>
    obtain ht | ht := ht <;> cases ht
    · exact State.moves_decStrobe fun _ => State.moves_decAdvanced false
    · exact State.moves_decStrobe fun _ => State.moves_decAdvanced true
  case decConstruct => obtain ht | ht := ht <;> cases ht <;> exact s.moves_decConstruct _

/-- Every command is confined to what it reaches, at either level. -/
theorem confined_of_command (ht : exec i s = .next t ∨ edge i s = .next t) : State.Confined (Reaches s i) s t :=
  ht.elim exec_confined edge_confined

/-- A property that each move of a decoder keeps, every command keeps, of every decoder. -/
theorem dec_of_command {P : Dec → Prop} (hP : ∀ d d' : Dec, d.Moves d' → P d → P d') (h : P (s.dec n))
    (ht : exec i s = .next t ∨ edge i s = .next t) : P (t.dec n) := by
  by_cases hr : Reaches s i .dec n
  · obtain ⟨hi, rfl⟩ := (reaches_iff (by decide)).1 hr
    exact hP _ _ (dec_moves_of_command hi ht) h
  · exact (confined_of_command ht).dec hr ▸ h

/-! ### The validator and the table -/

/-- A validator raises `PREMATURE` only, and counts only while it is live (rules R204, R221). -/
theorem exec_val_inv (hi : i.unit = .val) (h : (s.val s.port).Inv) (ht : exec i s = .next t) : (t.val s.port).Inv := by
  obtain ⟨hc, hm, hl⟩ := h
  cases i <;> cases hi
  case valNop =>
    cases ht
    exact ⟨hc, hm, hl⟩
  case valStep rd =>
    obtain ⟨-, e⟩ | ⟨hf, ⟨-, e⟩ | ⟨hlive, cls, -, e⟩⟩ := execValStep_cases s <;> cases e.symm.trans ht
    · exact ⟨hc, hm, hl⟩
    · rw [s.raise_val _ _ hf, State.withRet_val, State.setVal_val_same]
      exact ⟨hc.fault nofun, nofun, hl⟩
    · rw [State.withRet_val, State.setVal_val_same]
      exact ⟨hc, hm, fun h => nomatch hlive.symm.trans h⟩
  case valConstruct rd adv =>
    cases h : accepted s
    · obtain ⟨hl', hf⟩ := Common.build_not_accepted (s.val s.port).com s.tick .val s.port h
      cases (exec_valConstruct_not_accepted rd adv h).symm.trans ht
      rw [State.withRet_val, State.setVal_val_same]
      exact ⟨Common.inv_of_not_live hl', by simp [hf], fun _ => ⟨rfl, rfl, rfl⟩⟩
    · cases (exec_valConstruct_accepted rd adv h).symm.trans ht
      rw [State.withRet_val, State.setVal_val_same]
      exact ⟨Common.inv_built h, nofun, nofun⟩

/-- A table raises `CONFIG` only, and is then not live (rules R121, R221). -/
theorem exec_tbl_inv (hi : i.unit = .tbl) (h : (s.tbl s.port).Inv) (ht : exec i s = .next t) : (t.tbl s.port).Inv := by
  cases i <;> cases hi <;> cases ht
  case tblNop => exact h
  case tblBuild =>
    rw [State.withRet_tbl, State.setTbl_tbl_same]
    cases h : accepted s
    · obtain ⟨hl, hf⟩ := Common.build_not_accepted (s.tbl s.port).com s.tick .tbl s.port h
      exact ⟨Common.inv_of_not_live hl, .inr hf⟩
    · rw [Common.build_accepted _ _ _ _ h]
      exact ⟨Common.inv_built h, .inl rfl⟩

/-! ### The wires -/

/-- From `s` to `t` every source port is wired to the encoder it was wired to, or still to none. -/
def State.SameWires (s t : State) : Prop := ∀ p k, t.WiredTo p k ↔ s.WiredTo p k

theorem State.sameWires_of (hd : ∀ n k, (t.dec n).src = .encoder k ↔ (s.dec n).src = .encoder k)
    (hv : ∀ n k, (t.val n).src = .encoder k ↔ (s.val n).src = .encoder k) : s.SameWires t := by
  rintro ⟨u, n⟩ k
  cases u with
  | dec => exact hd n k
  | val => exact hv n k
  | enc | tbl => exact Iff.rfl

theorem State.DecConfined.sameWires (h : DecConfined n s t) : s.SameWires t := by
  refine State.sameWires_of (fun m k => ?_) fun m k => by rw [State.val, State.val, h.vals]
  by_cases hm : m = n
  · exact hm ▸ h.wire k
  · rw [h.dec m hm]

theorem State.sameWires_settle (s : State) (driven : Option Nat) : s.SameWires (s.settle driven) :=
  s.settle_keeps driven (P := s.SameWires)
    (fun t m _ _ h p k => ((State.decConfined_primeEdge m t).sameWires p k).trans (h p k)) fun _ _ => Iff.rfl

/-- A validator's command pops its port at most, which leaves it wired as it is. -/
theorem exec_val_wire (hi : i.unit = .val) (ht : exec i s = .next t) (k : Nat) :
    (t.val s.port).src = .encoder k ↔ (s.val s.port).src = .encoder k := by
  cases i <;> cases hi
  case valNop =>
    cases ht
    rfl
  case valStep rd =>
    obtain ⟨-, e⟩ | ⟨hf, ⟨-, e⟩ | ⟨-, cls, -, e⟩⟩ := execValStep_cases s <;> cases e.symm.trans ht
    · rfl
    · rw [s.raise_val _ _ hf, State.withRet_val, State.setVal_val_same]
    · rw [State.withRet_val, State.setVal_val_same, Val.stepped]
      cases (s.val s.port).src <;> simp [Wire.popped]
  case valConstruct rd adv =>
    cases ht
    rw [State.withRet_val, State.setVal_val_same]
    rfl

/-- No command rewires a port. -/
theorem sameWires_of_command (ht : exec i s = .next t ∨ edge i s = .next t) : s.SameWires t := by
  by_cases hi : i.unit = .dec
  · exact (ht.elim (exec_decConfined hi) (edge_decConfined hi)).sameWires
  · have h := confined_of_command ht
    rw [edge_eq_exec hi, or_self] at ht
    refine State.sameWires_of (fun m k => by rw [h.dec (not_reaches (by decide) hi m)]) fun m k => ?_
    by_cases hr : Reaches s i .val m
    · obtain ⟨hi, rfl⟩ := (reaches_iff (by decide)).1 hr
      exact exec_val_wire hi ht k
    · rw [h.val hr]

/-! ### Steps -/

theorem State.Sound.of_wires (h : s.Sound) (hw : s.SameWires t) (he : ∀ n, (t.enc n).Inv) (hd : ∀ n, (t.dec n).Inv)
    (hv : ∀ n, (t.val n).Inv) (hb : ∀ n, (t.tbl n).Inv) : t.Sound :=
  ⟨he, hd, hv, hb, fun k p p' hp hp' => h.alone k p p' ((hw p k).1 hp) ((hw p' k).1 hp')⟩

/-- Every command keeps the invariant, at either level. -/
theorem State.Sound.command (h : s.Sound) (ht : exec i s = .next t ∨ edge i s = .next t) : t.Sound := by
  have hc := confined_of_command ht
  refine h.of_wires (sameWires_of_command ht) (fun n => enc_inv_of_command (h.enc n) ht)
    (fun n => dec_of_command (fun _ _ hm => hm.inv) (h.dec n) ht) (fun n => ?_) fun n => ?_
  · by_cases hr : Reaches s i .val n
    · obtain ⟨hi, rfl⟩ := (reaches_iff (by decide)).1 hr
      rw [edge_eq_exec (by simp [hi]), or_self] at ht
      exact exec_val_inv hi (h.val _) ht
    · exact hc.val hr ▸ h.val n
  · by_cases hr : Reaches s i .tbl n
    · obtain ⟨hi, rfl⟩ := (reaches_iff (by decide)).1 hr
      rw [edge_eq_exec (by simp [hi]), or_self] at ht
      exact exec_tbl_inv hi (h.tbl _) ht
    · exact hc.tbl hr ▸ h.tbl n

/-- A decoder after the rest of the edge: as it was, or primed. -/
theorem State.moves_settle (s : State) (driven : Option Nat) (n : Nat) : (s.dec n).Moves ((s.settle driven).dec n) := by
  obtain ⟨-, -, -, -, -, -, -, hdriven, h⟩ := s.settle_other driven
  by_cases hn : driven = some n
  · rw [hdriven n hn]
    exact .kept rfl rfl rfl
  · exact .primed (h n).1 (h n).2.1 (s.settle_notBusy driven hn)

theorem State.Sound.settle (h : s.Sound) (driven : Option Nat) : (s.settle driven).Sound := by
  obtain ⟨hvals, htbls, -⟩ := s.settle_other driven
  exact h.of_wires (s.sameWires_settle driven) (fun n => State.settle_stable Enc.stable_inv (h.enc n) driven)
    (fun n => (s.moves_settle driven n).inv (h.dec n)) (fun n => by rw [State.val, hvals]; exact h.val n)
    fun n => by rw [State.tbl, htbls]; exact h.tbl n

theorem State.Sound.hardReset (h : s.Sound) : s.hardReset.Sound := by
  refine h.of_wires (State.sameWires_of (fun n k => by rw [(s.hardReset_dec n).src]) fun n k => by
    rw [(s.hardReset_val n).src]) (fun n => ?_) (fun n => ?_) (fun n => ?_) fun n => ?_
  · obtain ⟨⟨hl, hf⟩, hp, hd, -⟩ := s.hardReset_enc n
    exact ⟨Common.inv_of_not_live hl, by simp [hf], by simp [hd], fun _ => ⟨hp, hd⟩⟩
  · obtain ⟨⟨hl, hf⟩, hp, hb, -⟩ := s.hardReset_dec n
    exact ⟨Common.inv_of_not_live hl, by simp [hf], by simp [hb], fun _ => ⟨hp, hb⟩⟩
  · obtain ⟨⟨hl, hf⟩, hc, hp, hb, -⟩ := s.hardReset_val n
    exact ⟨Common.inv_of_not_live hl, by simp [hf], fun _ => ⟨hc, hp, hb⟩⟩
  · obtain ⟨hl, hf⟩ := s.hardReset_tbl n
    exact ⟨Common.inv_of_not_live hl, .inl hf⟩

/-- The event's wiring writes a validator's source and nothing else of it. -/
theorem State.wiring_val (s : State) (n : Nat) :
    s.wiring.val n = { s.val n with src := (s.wiring.val n).src } := by
  unfold State.wiring
  split
  · rfl
  · next x _ _ =>
    cases x with
    | attachVal m w =>
      by_cases hn : n = m
      · subst hn
        simp [State.rewired]
      · simp [State.rewired, State.setVal_val_other _ _ hn]
    | command | edge | observe | attachEnc | attachDec => rfl

theorem State.wiring_tbl (s : State) (n : Nat) : s.wiring.tbl n = s.tbl n := by
  unfold State.wiring
  split
  · rfl
  · next x _ _ => cases x <;> rfl

/-- Wiring keeps the invariant where it leaves one driver an encoder. -/
theorem State.Sound.wiring (h : s.Sound) (hone : s.wiring.oneDriver = true) : s.wiring.Sound :=
  ⟨fun n => by rw [s.wiring_enc]; exact h.enc n, fun n => by rw [s.wiring_dec]; exact h.dec n,
    fun n => by rw [s.wiring_val]; exact h.val n, fun n => by rw [s.wiring_tbl]; exact h.tbl n, s.wiring.oneDriver_iff.1 hone⟩

/-- The invariant speaks of the units alone. -/
theorem State.Sound.congr (h : s.Sound) (he : t.encs = s.encs) (hd : t.decs = s.decs) (hv : t.vals = s.vals)
    (hb : t.tbls = s.tbls) : t.Sound := by
  have hdec (n : Nat) : t.dec n = s.dec n := congrArg (unitGet Dec.reset · n) hd
  have hval (n : Nat) : t.val n = s.val n := congrArg (unitGet Val.reset · n) hv
  refine h.of_wires (State.sameWires_of (fun n k => by rw [hdec]) fun n k => by rw [hval])
    (fun n => State.enc_of_encs he n ▸ h.enc n) (fun n => hdec n ▸ h.dec n) (fun n => hval n ▸ h.val n) fun n => ?_
  rw [State.tbl, hb]
  exact h.tbl n

/-- A cycle that is not refused keeps the invariant. -/
theorem State.Sound.cycle (h : s.Sound) (hc : s.contended = false) (ht : s.cycle = .next t) : t.Sound := by
  by_cases hr : ∃ c rest, s.inbox = .edge true c :: rest
  · obtain ⟨c, rest, hr⟩ := hr
    simp only [State.cycle, hr] at ht
    cases ht
    exact (h.congr (t := s.present c rest) rfl rfl rfl rfl).hardReset
  · push Not at hr
    have hw := h.wiring (State.oneDriver_wiring hc hr)
    rcases hs : s.inbox with _ | ⟨x, rest⟩
    · simp only [State.wiring, State.cycle, hs] at hw ht
      cases ht
      exact (hw.congr (by rfl) (by rfl) (by rfl) (by rfl)).settle none
    simp only [State.wiring, hs] at hw
    cases x with
    | command c =>
      simp only [State.cycle, hs] at ht
      exact ((hw.congr (t := s.present c rest) rfl rfl rfl rfl).settle c.drivenDec).command (.inl ht)
    | edge rst c =>
      cases rst with
      | true => exact absurd hs (hr c rest)
      | false =>
        simp only [State.cycle, hs] at ht
        exact ((hw.congr (t := s.present c rest) rfl rfl rfl rfl).settle c.drivenDec).command (.inr ht)
    | observe | attachEnc | attachDec | attachVal =>
      simp only [State.cycle, hs] at ht
      cases ht
      exact (hw.congr (by rfl) (by rfl) (by rfl) (by rfl)).settle none

/-- Settles O58: a step that is not refused is a cycle. -/
theorem stepKeepsInvariant : Obligations.StepKeepsInvariant := by
  intro s t h ht
  rw [State.inv_iff_sound] at h ⊢
  obtain ⟨-, e⟩ | ⟨hc, e⟩ := step_cases s <;> rw [e] at ht
  · cases ht
  · exact h.cycle hc ht

/-- Settles O57: the one unit of each type is in its reset state, and no port is wired to an encoder. -/
theorem resetMeetsInvariant : Obligations.ResetMeetsInvariant := by
  unfold Obligations.ResetMeetsInvariant
  decide

end Sys2Proof.Machine
end

section
/-! What reset leaves unspecified shows nowhere (rule R40). `Alike` is the relation `State.Twins` with every unit hidden, beside
equal pending inputs and pins; looks, commands, the rest of a clock edge, wiring, reset and the refusal of a step are taken one
by one. -/

namespace Sys2Proof.Machine

open Sys2Proof.Claims

variable {s s' t t' : State} {i : Instr} {n : Nat}

/-! ### `Alike` as twins -/

/-- Every unit may differ in what reset leaves unspecified. -/
def Slack.unspecified : Slack := ⟨fun _ _ => False, fun _ _ => True, fun _ => False, fun _ _ h => h.elim⟩

/-- No decoder that is not live owes a prime. -/
def State.DeadIdle (s : State) : Prop := ∀ n, (s.dec n).com.live = false → (s.dec n).needPrime = false

/-- The two states differ in what reset leaves unspecified alone. -/
structure State.Indistinct (s s' : State) : Prop where
  twins : Twins .unspecified s s'
  inbox : s.inbox = s'.inbox
  cfg : s.cfg = s'.cfg
  idle : s.DeadIdle

theorem twin_enc_iff {e e' : Enc} : Twin Enc.Shadow True e e' ↔ AlikeCommon e.com e'.com ∧ e.pos = e'.pos ∧
    e.pad = e'.pad ∧ e.src = e'.src ∧ (e.com.live = true → e.prev = e'.prev) := by
  constructor
  · rintro (rfl | ⟨-, hl, hl', hf, hp, hd, hs⟩)
    · exact ⟨⟨rfl, rfl, fun _ => rfl⟩, rfl, rfl, rfl, fun _ => rfl⟩
    · exact ⟨⟨hl.trans hl'.symm, hf, by simp [hl]⟩, hp, hd, hs, by simp [hl]⟩
  · rintro ⟨⟨hl, hf, hc⟩, hp, hd, hs, hv⟩
    cases h : e.com.live
    · exact .inr ⟨trivial, h, hl.symm.trans h, hf, hp, hd, hs⟩
    · obtain ⟨c, p, v, d, r⟩ := e
      obtain ⟨c', p', v', d', r'⟩ := e'
      obtain rfl := hc h
      obtain rfl := hv h
      simp_all [Twin]

theorem twin_dec_iff {d d' : Dec} : (Twin Dec.Shadow True d d' ∧ (d.com.live = false → d.needPrime = false)) ↔
    AlikeCommon d.com d'.com ∧ d.pos = d'.pos ∧ d.needPrime = d'.needPrime ∧ d.src = d'.src ∧
      (d.com.live = true → d.prev = d'.prev) ∧ (d.com.live = false → d.needPrime = false) := by
  constructor
  · rintro ⟨rfl | ⟨-, hl, hl', hi, hi', hf, hp, hs⟩, hidle⟩
    · exact ⟨⟨rfl, rfl, fun _ => rfl⟩, rfl, rfl, rfl, fun _ => rfl, hidle⟩
    · exact ⟨⟨hl.trans hl'.symm, hf, by simp [hl]⟩, hp, hi.trans hi'.symm, hs, by simp [hl], fun _ => hi⟩
  · rintro ⟨⟨hl, hf, hc⟩, hp, hi, hs, hv, hidle⟩
    refine ⟨?_, hidle⟩
    cases h : d.com.live
    · exact .inr ⟨trivial, h, hl.symm.trans h, hidle h, hi.symm.trans (hidle h), hf, hp, hs⟩
    · obtain ⟨c, p, v, b, r⟩ := d
      obtain ⟨c', p', v', b', r'⟩ := d'
      obtain rfl := hc h
      obtain rfl := hv h
      simp_all [Twin]

theorem twin_val_iff {v v' : Val} : Twin Val.Shadow True v v' ↔
    AlikeCommon v.com v'.com ∧ v.cnt = v'.cnt ∧ v.npad = v'.npad ∧ v.bad = v'.bad ∧ v.src = v'.src := by
  constructor
  · rintro (rfl | ⟨-, hl, hl', hf, hc, hp, hb, hs⟩)
    · exact ⟨⟨rfl, rfl, fun _ => rfl⟩, rfl, rfl, rfl, rfl⟩
    · exact ⟨⟨hl.trans hl'.symm, hf, by simp [hl]⟩, hc, hp, hb, hs⟩
  · rintro ⟨⟨hl, hf, hcom⟩, hc, hp, hb, hs⟩
    cases h : v.com.live
    · exact .inr ⟨trivial, h, hl.symm.trans h, hf, hc, hp, hb, hs⟩
    · obtain ⟨c, x, p, b, r⟩ := v
      obtain ⟨c', x', p', b', r'⟩ := v'
      obtain rfl := hcom h
      simp_all [Twin]

theorem twin_tbl_iff {t t' : Tbl} : Twin Tbl.Shadow True t t' ↔ AlikeCommon t.com t'.com := by
  constructor
  · rintro (rfl | ⟨-, hl, hl', hf⟩)
    · exact ⟨rfl, rfl, fun _ => rfl⟩
    · exact ⟨hl.trans hl'.symm, hf, by simp [hl]⟩
  · rintro ⟨hl, hf, hcom⟩
    cases h : t.com.live
    · exact .inr ⟨trivial, h, hl.symm.trans h, hf⟩
    · exact .of_eq (congrArg Tbl.mk (hcom h))

theorem alike_iff : Alike s s' ↔ s.Indistinct s' := by
  constructor
  · rintro ⟨⟨hi, hp, hc, hr, hk⟩, h⟩
    refine ⟨⟨⟨fun n _ => twin_enc_iff.2 (h n).1, nofun⟩, ⟨fun n _ => (twin_dec_iff.2 (h n).2.1).1, nofun⟩,
      ⟨fun n _ => twin_val_iff.2 (h n).2.2.1, nofun⟩, ⟨fun n _ => twin_tbl_iff.2 (h n).2.2.2, nofun⟩, hp, hr, hk⟩, hi, hc,
      fun n => (twin_dec_iff.2 (h n).2.1).2⟩
  · rintro ⟨h, hi, hc, hidle⟩
    exact ⟨⟨hi, h.port, hc, h.ret, h.tick⟩, fun n => ⟨twin_enc_iff.1 (h.enc id), twin_dec_iff.1 ⟨h.dec id, hidle n⟩,
      twin_val_iff.1 (h.val id), twin_tbl_iff.1 (h.tbl id)⟩⟩

/-! ### Looks -/

/-- No unit differs at will, so every wire is within the slack. -/
theorem Wire.within_unspecified (w : Wire) : w.Within fun u k => ¬Slack.unspecified.free u k := fun _ _ => id

section Looks

variable (h : State.Indistinct s s')
include h

theorem State.Indistinct.common (u : UnitKind) (n : Nat) :
    (s.common u n).live = (s'.common u n).live ∧ (s.common u n).fault = (s'.common u n).fault := by
  cases u with
  | enc => exact ⟨(twin_enc_iff.1 (h.twins.enc id)).1.1, (twin_enc_iff.1 (h.twins.enc id)).1.2.1⟩
  | dec => exact ⟨(twin_dec_iff.1 ⟨h.twins.dec id, h.idle n⟩).1.1, (twin_dec_iff.1 ⟨h.twins.dec id, h.idle n⟩).1.2.1⟩
  | val => exact ⟨(twin_val_iff.1 (h.twins.val id)).1.1, (twin_val_iff.1 (h.twins.val id)).1.2.1⟩
  | tbl => exact ⟨(twin_tbl_iff.1 (h.twins.tbl id)).1, (twin_tbl_iff.1 (h.twins.tbl id)).2.1⟩

theorem State.Indistinct.decEmpty (n : Nat) : s.decEmpty n = s'.decEmpty n := by
  obtain hd | ⟨-, hd⟩ := h.twins.dec (n := n) id
  · simp only [State.decEmpty, ← hd, ← h.twins.decHead hd (Wire.within_unspecified _), h.twins.tick]
  · simp only [State.decEmpty, hd.idle, hd.idle', hd.live, hd.live', ← hd.fault, h.twins.tick, if_true]

theorem State.Indistinct.decFront (n : Nat) : s.decFront n = s'.decFront n := by
  obtain hd | ⟨-, hd⟩ := h.twins.dec (n := n) id
  · simp only [State.decFront, ← hd, ← h.twins.decHead hd (Wire.within_unspecified _), h.twins.tick]
  · simp only [State.decFront, hd.live, hd.live', or_true, if_true, h.twins.tick]

theorem State.Indistinct.valOk (n : Nat) : s.valOk n = s'.valOk n := by
  obtain hv | ⟨-, hv⟩ := h.twins.val (n := n) id
  · rw [State.valOk, State.valOk, hv]
  · simp [State.valOk, Val.ok, hv.live, hv.live']

/-- A table that answers is the same in both. -/
theorem State.Indistinct.tbl (n : Nat) :
    s.tbl n = s'.tbl n ∨ (s.tbl n).answers = false ∧ (s'.tbl n).answers = false := by
  obtain ht | ⟨-, ht⟩ := h.twins.tbl (n := n) id
  · exact .inl ht
  · exact .inr (by simp [Tbl.answers, ht.live, ht.live'])

theorem State.Indistinct.srcPop (u : UnitKind) (n : Nat) (rst : Bool) (w : Ctl) :
    s.srcPop u n rst w = s'.srcPop u n rst w := by
  cases u with
  | enc =>
    obtain he | ⟨-, he⟩ := h.twins.enc (n := n) id
    · simp only [State.srcPop, he]
    · simp [State.srcPop, Common.popping, he.live, he.live']
  | dec =>
    obtain hd | ⟨-, hd⟩ := h.twins.dec (n := n) id
    · simp only [State.srcPop, State.decHeadData, ← hd, ← h.twins.decHead hd (Wire.within_unspecified _)]
    · simp [State.srcPop, Common.popping, hd.live, hd.live', hd.idle, hd.idle']
  | val =>
    obtain hv | ⟨-, hv⟩ := h.twins.val (n := n) id
    · simp only [State.srcPop, ← hv, h.twins.wireEmpty (Wire.within_unspecified _)]
    · simp [State.srcPop, Common.popping, hv.live, hv.live']
  | tbl => rfl

theorem State.Indistinct.answer (q : Query) : s.answer q = s'.answer q := by
  cases q with
  | encEmpty n => exact congrArg Ret.bit (h.twins.encEmpty id)
  | encFront n => exact congrArg Ret.symbol (h.twins.encFront id)
  | decEmpty n => exact congrArg Ret.bit (h.decEmpty n)
  | decFront n => exact congrArg Ret.byte (h.decFront n)
  | valOk n => exact congrArg Ret.bit (h.valOk n)
  | tblFwd n i =>
    obtain ht | ⟨ht, ht'⟩ := h.tbl n
    · simp only [State.answer, State.tblFwd, ht, h.twins.tick]
    · simp [State.answer, State.tblFwd, ht, ht', h.twins.tick]
  | tblPadSym n =>
    obtain ht | ⟨ht, ht'⟩ := h.tbl n
    · simp only [State.answer, State.tblPadSym, ht, h.twins.tick]
    · simp [State.answer, State.tblPadSym, ht, ht', h.twins.tick]
  | tblRev n v =>
    obtain ht | ⟨ht, ht'⟩ := h.tbl n
    · simp only [State.answer, State.tblRev, ht, h.twins.tick]
    · simp [State.answer, State.tblRev, ht, ht', h.twins.tick]
  | live u n => exact congrArg Ret.bit (h.common u n).1
  | fault u n => exact congrArg (fun f => Ret.code (FaultCode.bits f)) (h.common u n).2
  | busy u n =>
    cases u with
    | dec => exact congrArg Ret.bit (h.twins.dec (n := n) id).dec_needPrime
    | enc | val | tbl => rfl
  | srcPop u n rst w => exact congrArg Ret.bit (h.srcPop u n rst w)

/-! ### The rest of a clock edge -/

theorem State.Indistinct.withRet (r : Ret) : (s.withRet r).Indistinct (s'.withRet r) :=
  ⟨h.twins.withRet r, h.inbox, h.cfg, h.idle⟩

theorem State.Indistinct.present (c : Command) (rest : List Input) : (s.present c rest).Indistinct (s'.present c rest) :=
  ⟨⟨h.twins.encs, h.twins.decs, h.twins.vals, h.twins.tbls, rfl, h.twins.ret, congrArg (· + 1) h.twins.tick⟩, rfl, rfl,
    h.idle⟩

theorem State.Indistinct.await (rest : List Input) : (s.await rest).Indistinct (s'.await rest) :=
  ⟨⟨h.twins.encs, h.twins.decs, h.twins.vals, h.twins.tbls, h.twins.port, h.twins.ret, congrArg (· + 1) h.twins.tick⟩,
    rfl, h.cfg, h.idle⟩

end Looks

/-- A busy decoder is live, so its twin is the same and primes alike. -/
theorem State.Twins.primeOwed (h : State.Twins .unspecified s s') (driven : Option Nat) (l : List Nat) :
    Twins .unspecified (State.primeOwed driven l s) (State.primeOwed driven l s') := by
  induction l generalizing s s' with
  | nil => exact h
  | cons n l ih =>
    have hd := h.dec (n := n) id
    refine ih ?_
    rw [← hd.dec_needPrime]
    split
    · next hb => exact h.primeEdge (hd.dec_eq_of_busy hb.1) (Wire.within_unspecified _)
    · exact h

/-- The two lists of decoders may differ in length, but numbers past the end owe nothing. -/
theorem State.Twins.settle (h : State.Twins .unspecified s s') (driven : Option Nat) :
    Twins .unspecified (s.settle driven) (s'.settle driven) := by
  rw [← s.primeOwed_range driven s'.decs.length, ← s'.primeOwed_range driven s.decs.length,
    Nat.add_comm s'.decs.length]
  exact h.primeOwed driven _

theorem State.Indistinct.settle (h : State.Indistinct s s') (driven : Option Nat) :
    (s.settle driven).Indistinct (s'.settle driven) := by
  obtain ⟨-, -, hi, -, hc, -⟩ := s.settle_other driven
  obtain ⟨-, -, hi', -, hc', -⟩ := s'.settle_other driven
  exact ⟨h.twins.settle driven, (hi.trans h.inbox).trans hi'.symm, (hc.trans h.cfg).trans hc'.symm,
    fun n => (s.moves_settle driven n).idle (h.idle n)⟩

/-! ### Commands -/

theorem State.Indistinct.exec (h : State.Indistinct s s') (ht : exec i s = .next t) (ht' : exec i s' = .next t') :
    t.Indistinct t' :=
  ⟨exec_twins h.twins (fun _ => h.cfg) (fun _ _ _ => id) ht ht',
    ((exec_confined ht).inbox.trans h.inbox).trans (exec_confined ht').inbox.symm,
    ((exec_confined ht).cfg.trans h.cfg).trans (exec_confined ht').cfg.symm,
    fun n => dec_of_command (P := fun d => d.com.live = false → d.needPrime = false) (fun _ _ hm => hm.idle) (h.idle n)
      (.inl ht)⟩

theorem State.Indistinct.edge (h : State.Indistinct s s') (ht : edge i s = .next t) (ht' : edge i s' = .next t') :
    t.Indistinct t' :=
  ⟨edge_twins h.twins (fun _ => h.cfg) (fun _ _ _ => id) ht ht',
    ((edge_confined ht).inbox.trans h.inbox).trans (edge_confined ht').inbox.symm,
    ((edge_confined ht).cfg.trans h.cfg).trans (edge_confined ht').cfg.symm,
    fun n => dec_of_command (P := fun d => d.com.live = false → d.needPrime = false) (fun _ _ hm => hm.idle) (h.idle n)
      (.inr ht)⟩

/-! ### Wiring and reset -/

theorem State.Indistinct.rewired (h : State.Indistinct s s') (x : Input) : (s.rewired x).Indistinct (s'.rewired x) := by
  cases x with
  | command | edge | observe => exact h
  | attachEnc n src =>
    refine ⟨h.twins.setEnc ?_, h.inbox, h.cfg, h.idle⟩
    obtain he | ⟨hp, he⟩ := h.twins.enc (n := n) id
    · exact .of_eq (by rw [he])
    · exact .inr ⟨hp, he.live, he.live', he.fault, he.pos, he.pad, rfl⟩
  | attachDec n w =>
    refine ⟨h.twins.setDec ?_, h.inbox, h.cfg, fun m => ?_⟩
    · obtain hd | ⟨hp, hd⟩ := h.twins.dec (n := n) id
      · exact .of_eq (by rw [hd])
      · exact .inr ⟨hp, hd.live, hd.live', hd.idle, hd.idle', hd.fault, hd.pos, rfl⟩
    · by_cases hm : m = n
      · subst hm
        simpa [State.rewired] using h.idle m
      · simpa [State.rewired, State.setDec_dec_other _ _ hm] using h.idle m
  | attachVal n w =>
    refine ⟨h.twins.setVal ?_, h.inbox, h.cfg, h.idle⟩
    obtain hv | ⟨hp, hv⟩ := h.twins.val (n := n) id
    · exact .of_eq (by rw [hv])
    · exact .inr ⟨hp, hv.live, hv.live', hv.fault, hv.cnt, hv.npad, hv.bad, rfl⟩

/-- Every source port is wired alike in both. -/
theorem State.Indistinct.sameWires (h : State.Indistinct s s') : s.SameWires s' :=
  State.sameWires_of (fun n k => by rw [(h.twins.dec (n := n) id).dec_src])
    fun n k => by rw [(h.twins.val (n := n) id).val_src]

/-- Reset leaves every unit not live, its source where it was. -/
theorem State.Indistinct.hardReset (h : State.Indistinct s s') : s.hardReset.Indistinct s'.hardReset := by
  refine ⟨⟨⟨fun n _ => .inr ⟨trivial, ?_⟩, nofun⟩, ⟨fun n _ => .inr ⟨trivial, ?_⟩, nofun⟩,
    ⟨fun n _ => .inr ⟨trivial, ?_⟩, nofun⟩, ⟨fun n _ => .inr ⟨trivial, ?_⟩, nofun⟩, h.twins.port, rfl, h.twins.tick⟩,
    h.inbox, h.cfg, fun n _ => (s.hardReset_dec n).needPrime⟩
  · have hr := s.hardReset_enc n
    have hr' := s'.hardReset_enc n
    exact ⟨hr.com.live, hr'.com.live, hr.com.fault.trans hr'.com.fault.symm, hr.pos.trans hr'.pos.symm,
      hr.pad.trans hr'.pad.symm, (hr.src.trans (h.twins.enc id).enc_src).trans hr'.src.symm⟩
  · have hr := s.hardReset_dec n
    have hr' := s'.hardReset_dec n
    exact ⟨hr.com.live, hr'.com.live, hr.needPrime, hr'.needPrime, hr.com.fault.trans hr'.com.fault.symm,
      hr.pos.trans hr'.pos.symm, (hr.src.trans (h.twins.dec id).dec_src).trans hr'.src.symm⟩
  · have hr := s.hardReset_val n
    have hr' := s'.hardReset_val n
    exact ⟨hr.com.live, hr'.com.live, hr.com.fault.trans hr'.com.fault.symm, hr.cnt.trans hr'.cnt.symm,
      hr.npad.trans hr'.npad.symm, hr.bad.trans hr'.bad.symm, (hr.src.trans (h.twins.val id).val_src).trans hr'.src.symm⟩
  · have hr := s.hardReset_tbl n
    have hr' := s'.hardReset_tbl n
    exact ⟨hr.live, hr'.live, hr.fault.trans hr'.fault.symm⟩

/-! ### The refusal of a step -/

theorem State.SameWires.oneDriver (h : s.SameWires t) : s.oneDriver = t.oneDriver := by
  rw [Bool.eq_iff_iff, State.oneDriver_iff, State.oneDriver_iff]
  simp only [h _ _]

theorem State.Indistinct.secondDriver (h : State.Indistinct s s') (c : Command) : s.secondDriver c = s'.secondDriver c := by
  have hfeeds : s.feedsLive c.num = s'.feedsLive c.num := by
    rw [Bool.eq_iff_iff, State.feedsLive_iff, State.feedsLive_iff]
    simp only [h.sameWires _ _, (h.common _ _).1]
  have hpops : s.primePops c.num = s'.primePops c.num := by
    rw [Bool.eq_iff_iff, State.primePops_iff, State.primePops_iff]
    refine exists_congr fun m => exists_congr fun i => ?_
    have hd := h.twins.dec (n := m) id
    rw [← hd.dec_needPrime, ← hd.dec_src]
    refine and_congr_right fun hb => ?_
    rw [h.twins.decHead (hd.dec_eq_of_busy hb) (Wire.within_unspecified _)]
  rw [State.secondDriver, State.secondDriver, hfeeds, hpops]

theorem State.Indistinct.nextEdge (h : State.Indistinct s s') : s.nextEdge.Indistinct s'.nextEdge :=
  ⟨h.twins.nextEdge, h.inbox, h.cfg, h.idle⟩

theorem State.Indistinct.contended (h : State.Indistinct s s') : s.contended = s'.contended := by
  rw [State.contended, State.contended, ← h.inbox, ← h.sameWires.oneDriver]
  split
  · rfl
  · rfl
  · rw [h.nextEdge.secondDriver]
  · rw [h.nextEdge.secondDriver]
  · rfl
  all_goals rw [(h.rewired _).sameWires.oneDriver]

/-- A cycle takes the two states to two alike. -/
theorem State.Indistinct.cycle (h : State.Indistinct s s') (ht : s.cycle = .next t) (ht' : s'.cycle = .next t') :
    t.Indistinct t' := by
  rcases hs : s.inbox with _ | ⟨x, rest⟩
  · have hs' := h.inbox.symm.trans hs
    simp only [State.cycle, hs, hs'] at ht ht'
    cases ht
    cases ht'
    exact (h.await []).settle none
  have hs' := h.inbox.symm.trans hs
  cases x with
  | command c =>
    simp only [State.cycle, hs, hs'] at ht ht'
    exact ((h.present c rest).settle c.drivenDec).exec ht ht'
  | edge rst c =>
    cases rst <;> simp only [State.cycle, hs, hs'] at ht ht'
    · exact ((h.present c rest).settle c.drivenDec).edge ht ht'
    · cases ht
      cases ht'
      exact (h.present c rest).hardReset
  | observe q =>
    simp only [State.cycle, hs, hs'] at ht ht'
    cases ht
    cases ht'
    rw [(h.await rest).answer q]
    exact ((h.await rest).withRet _).settle none
  | attachEnc | attachDec | attachVal =>
    simp only [State.cycle, hs, hs'] at ht ht'
    cases ht
    cases ht'
    exact ((h.await rest).rewired _).settle none

/-- A clock edge answers a next state (rule R14). -/
theorem edge_next (i : Instr) (s : State) : ∃ t, edge i s = .next t := by
  cases i <;> exact ⟨_, rfl⟩

/-- So does a clock cycle. -/
theorem State.cycle_next (s : State) : ∃ t, s.cycle = .next t := by
  rcases hs : s.inbox with _ | ⟨x, rest⟩
  · simp only [State.cycle, hs]
    exact ⟨_, rfl⟩
  cases x with
  | command c =>
    simp only [State.cycle, hs]
    exact exec_next _ _
  | edge rst c =>
    cases rst <;> simp only [State.cycle, hs]
    · exact edge_next _ _
    · exact ⟨_, rfl⟩
  | observe | attachEnc | attachDec | attachVal =>
    simp only [State.cycle, hs]
    exact ⟨_, rfl⟩

/-- A step is refused exactly where it is contended. -/
theorem step_eq_refused_iff {r : Refusal} : step s = .refused r ↔ s.contended = true ∧ r = .twoDrivers := by
  obtain ⟨hc, e⟩ | ⟨hc, e⟩ := step_cases s <;> rw [e, hc]
  · simp [eq_comm]
  · obtain ⟨t, ht⟩ := s.cycle_next
    simp [ht]

/-- Settles O59: `Alike` is `State.Indistinct`, which looks do not see and every event keeps. -/
theorem unspecifiedRegistersNeverShow : Obligations.UnspecifiedRegistersNeverShow := by
  simp only [Obligations.UnspecifiedRegistersNeverShow, alike_iff]
  refine ⟨fun s s' q h => h.answer q, fun i s s' t t' h => h.exec, fun i s s' t t' h => h.edge, fun s s' t t' h ht ht' => ?_,
    fun s s' h => by rw [step_eq_refused_iff, step_eq_refused_iff, h.contended]⟩
  obtain ⟨-, e⟩ | ⟨-, e⟩ := step_cases s <;> rw [e] at ht
  · cases ht
  · obtain ⟨-, e'⟩ | ⟨-, e'⟩ := step_cases s' <;> rw [e'] at ht'
    · cases ht'
    · exact h.cycle ht ht'

end Sys2Proof.Machine
end

section
/-! The pin level: a busy decoder primes at its next edge (rules R38, R110, R111, R233), and the edge of a decoder's command
with the edge of its prime is one operation. -/

namespace Sys2Proof.Machine

open Sys2Proof.Claims
open Host (Outcome)

variable {s t v : State} {i : Instr} {n : Nat} {c : Command} {rest : List Input}

theorem step_of_not_contended (hc : s.contended = false) : step s = s.cycle := if_neg (by simp [hc])

/-! ### A busy decoder -/

/-- Every command of a busy decoder makes it prime, at either level; a read is given the unspecified pin (rule R273). -/
theorem command_dec_busy (hi : i.unit = .dec) (hb : (s.dec s.port).needPrime = true) :
    ∃ r, exec i s = .next ((s.primeEdge s.port).withRet r) ∧ edge i s = .next ((s.primeEdge s.port).withRet r) ∧
      (i = .decFront ∨ i = .decPop → r = .byte (Config.freeDecFront s.tick s.port)) ∧
      (¬(i = .decFront ∨ i = .decPop) → r = s.ret) := by
  have kept : (s.primeEdge s.port).withRet s.ret = s.primeEdge s.port := by
    have hret : (s.primeEdge s.port).ret = s.ret := by simp [s.primeEdge_other]
    exact hret ▸ rfl
  have strobed (rd : Bool) (k : Dec → Idx → State) :
      s.decStrobe rd k = if rd then s.primeEdgeRead s.port else s.primeEdge s.port := s.decStrobe_busy rd k hb
  cases i <;> cases hi
  case decFront | decPop =>
    exact ⟨_, congrArg _ (strobed true _), congrArg _ (strobed true _), fun _ => rfl, by simp⟩
  case decAdvance =>
    exact ⟨s.ret, congrArg _ ((strobed false _).trans kept.symm), congrArg _ ((strobed false _).trans kept.symm),
      by simp, fun _ => rfl⟩
  case decNop =>
    have primed : exec .decNop s = .next (s.primeEdge s.port) := by rw [exec, execDecNop, if_pos hb]
    exact ⟨s.ret, kept.symm ▸ primed, kept.symm ▸ primed, by simp, fun _ => rfl⟩
  case decConstruct =>
    have primed (pinLevel : Bool) : s.decConstruct pinLevel = s.primeEdge s.port := by
      rw [State.decConstruct, if_pos hb]
    exact ⟨s.ret, congrArg _ ((primed false).trans kept.symm), congrArg _ ((primed true).trans kept.symm), by simp,
      fun _ => rfl⟩

/-- The rest of a clock edge does nothing where no decoder is busy. -/
theorem State.primeOwed_idle (hidle : ∀ m, (s.dec m).needPrime = false) (l : List Nat) : State.primeOwed none l s = s :=
  s.primeOwed_keeps none (P := (· = s)) (fun _ m hb _ e => by simp [e, hidle] at hb) l rfl

/-- Where one decoder alone is busy, the rest of a clock edge is its prime. -/
theorem State.settle_one (hb : (s.dec n).needPrime = true) (hidle : ∀ m, m ≠ n → (s.dec m).needPrime = false) :
    s.settle none = s.primeEdge n := by
  have primed : ∀ l, n ∈ l → State.primeOwed none l s = s.primeEdge n := by
    intro l
    induction l with
    | nil => simp
    | cons m l ih =>
      intro hn
      rw [State.primeOwed]
      by_cases hm : m = n
      · subst hm
        rw [if_pos ⟨hb, nofun⟩]
        refine State.primeOwed_idle (fun k => ?_) l
        by_cases hk : k = m
        · simp [hk, s.primeEdge_other]
        · simpa [s.primeEdge_other, hk] using hidle k hk
      · rw [if_neg (by simp [hidle m hm])]
        exact ih (List.mem_of_ne_of_mem (Ne.symm hm) hn)
  exact primed _ (List.mem_range.2 (s.needPrime_listed hb))

/-- After a command of a busy decoder it is not busy any more. -/
theorem command_primes (hi : i.unit = .dec) (hb : (s.dec s.port).needPrime = true)
    (ht : exec i s = .next t ∨ edge i s = .next t) : (t.dec s.port).needPrime = false := by
  obtain ⟨r, hx, he, -⟩ := command_dec_busy hi hb
  obtain ht | ht := ht
  · cases hx.symm.trans ht
    simp [s.primeEdge_other]
  · cases he.symm.trans ht
    simp [s.primeEdge_other]

/-- After a step no decoder is busy that was before it: the command makes it prime if it is driven, else the rest of the edge
does. -/
theorem step_primes (ht : step s = .next t) (hb : (s.dec n).needPrime = true) : (t.dec n).needPrime = false := by
  have driven (c : Command) (rest : List Input)
      (hc : exec (decode c.unit c.ctl) ((s.present c rest).settle c.drivenDec) = .next t ∨
        edge (decode c.unit c.ctl) ((s.present c rest).settle c.drivenDec) = .next t) : (t.dec n).needPrime = false := by
    obtain ⟨-, -, -, hport, -, -, -, hsame, -⟩ := (s.present c rest).settle_other c.drivenDec
    by_cases hd : c.unit = .dec ∧ c.num = n
    · obtain ⟨hu, rfl⟩ := hd
      have hown := hsame c.num (by simp [Command.drivenDec, hu])
      have primed := command_primes ((decode_unit _ _).trans hu) (by rw [hport, State.present_port, hown]; exact hb) hc
      rwa [hport] at primed
    · rw [(confined_of_command hc).dec]
      · exact (s.present c rest).settle_notBusy _ (by simpa [Command.drivenDec] using hd)
      · rintro hr
        obtain ⟨hu, hn⟩ := (reaches_iff (by decide)).1 hr
        exact hd ⟨(decode_unit _ _).symm.trans hu, hport.symm.trans hn⟩
  obtain ⟨-, e⟩ | ⟨-, e⟩ := step_cases s <;> rw [e] at ht
  · cases ht
  rcases hs : s.inbox with _ | ⟨x, rest⟩
  · simp only [State.cycle, hs] at ht
    cases ht
    exact State.settle_notBusy _ _ nofun
  cases x with
  | command c =>
    simp only [State.cycle, hs] at ht
    exact driven c rest (.inl ht)
  | edge rst c =>
    cases rst <;> simp only [State.cycle, hs] at ht
    · exact driven c rest (.inr ht)
    · cases ht
      exact ((s.present c rest).hardReset_dec n).needPrime
  | observe | attachEnc | attachDec | attachVal =>
    simp only [State.cycle, hs] at ht
    cases ht
    exact State.settle_notBusy _ _ nofun

/-- Settles O29: the command or the rest of the edge makes a busy decoder prime, and with nothing pending nothing else
happens. -/
theorem busyDecoderPrimes : Obligations.BusyDecoderPrimes := by
  refine ⟨fun i s hi hb => ?_, fun s t n ht hb => congrArg Ret.bit (step_primes ht (Ret.bit.inj hb)),
    fun s n hs hc hb hidle => ?_⟩
  · obtain ⟨r, hx, he, hread, helse⟩ := command_dec_busy hi hb
    have hfront : s.answer (.decFront s.port) = .byte (Config.freeDecFront s.tick s.port) := by
      simp [State.answer, State.decFront, hb]
    exact ⟨_, hx, he, rfl, fun h => (hread h).trans hfront.symm, helse, congrArg Ret.bit hb,
      congrArg Ret.bit (command_primes hi hb (.inl hx))⟩
  · rw [step_of_not_contended hc, State.cycle, hs]
    refine congrArg Outcome.next ?_
    rw [State.await, ← hs]
    exact State.settle_one hb hidle

/-! ### The edge of a command and the edge of its prime -/

theorem State.wirePop_setDec (s : State) (n : Nat) (d : Dec) (w : Wire) :
    (s.setDec n d).wirePop w = (s.wirePop w).setDec n d := by
  cases w with
  | stream src => rfl
  | encoder k =>
    simp only [State.wirePop_encoder, State.wireAdvance, apply_ite (State.setDec · n d)]
    rfl

/-- A prime left owed and then performed at the next edge is the prime an operation ends with (rules R38, R110). -/
theorem State.primeEdge_owed (s : State) (n : Nat) {d : Dec} (hd : d.needPrime = false) :
    ((s.setDec n d).owePrime n true).nextEdge.primeEdge n = (s.setDec n d).owePrime n false := by
  have hpost : (s.setDec n d).owePrime n true = s.setDec n { d with needPrime := true } := by simp [State.owePrime]
  have hcommute (x : Dec) : (s.setDec n x).nextEdge = s.nextEdge.setDec n x := rfl
  have hhead : (s.nextEdge.setDec n { d with needPrime := true }).decHead n = (s.nextEdge.setDec n d).decHead n := by
    simp only [State.decHead, State.setDec_dec_same]
    rfl
  rw [hpost, hcommute, State.primeEdge]
  change _ = (s.setDec n d).nextEdge.prime n
  rw [hcommute]
  obtain ⟨i, hi, e⟩ | ⟨hn, e⟩ := (s.nextEdge.setDec n d).prime_cases n <;> rw [e]
  · rw [State.prime_data _ _ (hhead.trans hi)]
    simp [State.decTake, State.wirePop_setDec, hd]
  · rw [State.prime_else _ _ (hhead ▸ hn)]
    simp [← hd]

/-- The operation that ends in `v` ends in `t` at its own clock edge: with its prime left owed, or without one. -/
def State.Completes (n : Nat) (t v : State) : Prop :=
  (t.dec n).needPrime = false ∧ v = t ∨ (t.dec n).needPrime = true ∧ v = t.nextEdge.primeEdge n

theorem State.primeEdge_withRet (s : State) (n : Nat) (r : Ret) : (s.withRet r).primeEdge n = (s.primeEdge n).withRet r := by
  have hinbox : (s.primeEdge n).inbox = s.inbox := by simp [s.primeEdge_other]
  exact (s.primeEdge_relabel s.inbox r n).trans (hinbox ▸ rfl)

theorem State.Completes.withRet (h : State.Completes n t v) (r : Ret) : Completes n (t.withRet r) (v.withRet r) := by
  obtain ⟨hb, rfl⟩ | ⟨hb, rfl⟩ := h
  · exact .inl ⟨hb, rfl⟩
  · exact .inr ⟨hb, (t.nextEdge.primeEdge_withRet n r).symm⟩

theorem State.completes_owePrime (s : State) (n : Nat) {d : Dec} (hd : d.needPrime = false) :
    Completes n ((s.setDec n d).owePrime n true) ((s.setDec n d).owePrime n false) :=
  .inr ⟨by simp [State.owePrime], (s.primeEdge_owed n hd).symm⟩

theorem State.completes_decAdvanced (hb : (s.dec n).needPrime = false) (x : Idx) :
    Completes n (s.decAdvanced n x true) (s.decAdvanced n x false) := by
  by_cases hp : (s.dec n).pos = 2
  · rw [State.decAdvanced, State.decAdvanced, if_pos hp, if_pos hp]
    exact State.completes_owePrime _ n hb
  · rw [State.decAdvanced_inside hp, State.decAdvanced_inside hp]
    exact .inl ⟨by simp [hb], rfl⟩

/-- Where a strobed operation of a decoder that is not busy does not complete, what it does does not hang on its completion. -/
theorem State.decStrobe_completion (rd : Bool) (hb : (s.dec s.port).needPrime = false) :
    (∃ x, ∀ k, s.decStrobe rd k = k (s.dec s.port) x) ∨
      ∃ u, (u.dec s.port).needPrime = false ∧ ∀ k, s.decStrobe rd k = u := by
  by_cases hf : (s.dec s.port).com.fault = .none
  · have raised (f : FaultCode) : ((s.raise .dec s.port f).dec s.port).needPrime = false := by
      simp [s.raise_dec _ _ hf, hb]
    cases hl : (s.dec s.port).com.live
    · exact .inr ⟨_, raised _, fun k => s.decStrobe_notLive rd k hb hf hl⟩
    · rcases h : s.decHead s.port with _ | x | _ | _
      · exact .inr ⟨_, raised _, fun k => s.decStrobe_ended rd k hb hf (.inl h)⟩
      · exact .inl ⟨x, fun k => s.decStrobe_data rd k hb hf hl h⟩
      · exact .inr ⟨_, raised _, fun k => s.decStrobe_ended rd k hb hf (.inr h)⟩
      · exact .inr ⟨_, raised _, fun k => s.decStrobe_invalid rd k hb hf hl h⟩
  · exact .inr ⟨s.withRet .ignored, hb, fun k => s.decStrobe_faulted rd k hb hf⟩

theorem State.completes_decStrobe {rd : Bool} {r : Dec → Idx → Ret} (hb : (s.dec s.port).needPrime = false) :
    Completes s.port (s.decStrobe rd fun d x => (s.decAdvanced s.port x true).withRet (r d x))
      (s.decStrobe rd fun d x => (s.decAdvanced s.port x false).withRet (r d x)) := by
  obtain ⟨x, e⟩ | ⟨u, hu, e⟩ := s.decStrobe_completion rd hb <;> rw [e, e]
  · exact (State.completes_decAdvanced hb x).withRet _
  · exact .inl ⟨hu, rfl⟩

theorem State.completes_decConstruct (hb : (s.dec s.port).needPrime = false) :
    Completes s.port (s.decConstruct true) (s.decConstruct false) := by
  cases h : accepted s
  · rw [State.decConstruct_not_accepted hb h, State.decConstruct_not_accepted hb h]
    exact .inl ⟨by simp, rfl⟩
  · rw [State.decConstruct_accepted hb h, State.decConstruct_accepted hb h]
    exact (s.completes_owePrime s.port rfl).withRet .done

/-- Every command of a decoder that is not busy ends as its clock edge does, up to the prime. -/
theorem completes_of_dec (hi : i.unit = .dec) (hb : (s.dec s.port).needPrime = false) (hx : exec i s = .next v)
    (he : edge i s = .next t) : State.Completes s.port t v := by
  have same (h : edge i s = exec i s) : State.Completes s.port t v := by
    cases hx.symm.trans (h.symm.trans he)
    exact .inl ⟨exec_dec_needPrime hi hx, rfl⟩
  cases i <;> cases hi
  case decNop | decFront => exact same rfl
  case decAdvance | decPop =>
    cases hx
    cases he
    exact State.completes_decStrobe hb
  case decConstruct =>
    cases hx
    cases he
    exact State.completes_decConstruct hb

/-! ### Two steps and one -/

/-- What is pending beside a command is none of its business. -/
theorem exec_inbox (hx : exec i s = .next v) (rest : List Input) :
    exec i { s with inbox := rest } = .next { v with inbox := rest } := by
  obtain ⟨v', hx'⟩ := exec_next i { s with inbox := rest }
  have h : State.Twins .nothing s { s with inbox := rest } := ⟨.refl _, .refl _, .refl _, .refl _, rfl, rfl, rfl⟩
  have heq := (exec_twins h (fun _ => rfl) (fun _ _ _ h => h) hx hx').eq_of_nothing
  have hcfg : v'.cfg = v.cfg := (exec_confined hx').cfg.trans (exec_confined hx).cfg.symm
  have hinbox : v'.inbox = rest := (exec_confined hx').inbox
  rw [hx', heq, hcfg, hinbox]

/-- A second driver is no matter of a decoder's command: only two wires refuse it (rule R272). -/
theorem State.contended_dec (hs : s.inbox = .command c :: rest ∨ s.inbox = .edge false c :: rest) (hu : c.unit = .dec) :
    s.contended = !s.oneDriver := by
  obtain hs | hs := hs <;> simp [State.contended, hs, State.secondDriver, hu]

section Driven

variable (hu : c.unit = .dec) (hidle : ∀ m, m ≠ c.num → (s.dec m).needPrime = false)
include hu hidle

theorem State.settle_driven : (s.present c rest).settle c.drivenDec = s.present c rest :=
  State.settle_idle _ _ fun m hm => hidle m fun e => hm (by simp [Command.drivenDec, hu, e])

variable (ho : s.oneDriver = true)
include ho

/-- With no other decoder busy a decoder's command pending is all that happens. -/
theorem step_dec_command (hs : s.inbox = .command c :: rest) : step s = exec (decode .dec c.ctl) (s.present c rest) := by
  rw [step_of_not_contended (by simp [State.contended_dec (.inl hs) hu, ho]), State.cycle, hs]
  simp only [State.settle_driven hu hidle, hu]

/-- And so is its clock edge. -/
theorem step_dec_edge (hs : s.inbox = .edge false c :: rest) : step s = edge (decode .dec c.ctl) (s.present c rest) := by
  rw [step_of_not_contended (by simp [State.contended_dec (.inr hs) hu, ho]), State.cycle, hs]
  simp only [State.settle_driven hu hidle, hu]

end Driven

section Edge

variable (hs : s.inbox = .edge false c :: rest) (hu : c.unit = .dec) (ht : step s = .next t)
include hs hu ht

theorem oneDriver_of_dec_edge : s.oneDriver = true := by
  obtain ⟨-, e⟩ | ⟨hc, -⟩ := step_cases s
  · cases e.symm.trans ht
  · simpa [State.contended_dec (.inr hs) hu] using hc

variable (hidle : ∀ m, (s.dec m).needPrime = false)
include hidle

/-- The clock edge of a decoder's command, and the operation of the same command with other inputs pending. -/
theorem step_dec_edge_completes (rest' : List Input) :
    ∃ v, State.Completes c.num t v ∧ step { s with inbox := .command c :: rest' } = .next { v with inbox := rest' } := by
  have ho := oneDriver_of_dec_edge hs hu ht
  rw [step_dec_edge hu (fun m _ => hidle m) ho hs] at ht
  obtain ⟨v, hv⟩ := exec_next (decode .dec c.ctl) (s.present c rest)
  refine ⟨v, completes_of_dec (decode_unit _ _) (hidle c.num) hv ht, ?_⟩
  exact (step_dec_command (s := { s with inbox := .command c :: rest' }) hu (fun m _ => hidle m) ho rfl).trans
    (exec_inbox hv rest')

/-- After the edge the driven number and the pins are those of the command, no encoder has two drivers, and no other decoder
is busy. -/
theorem after_dec_edge : t.inbox = rest ∧ t.port = c.num ∧ t.cfg = c.cfg ∧ t.oneDriver = true ∧
    ∀ m, m ≠ c.num → (t.dec m).needPrime = false := by
  have ho := oneDriver_of_dec_edge hs hu ht
  rw [step_dec_edge hu (fun m _ => hidle m) ho hs] at ht
  have hconf := edge_confined ht
  refine ⟨hconf.inbox, hconf.port, hconf.cfg, (sameWires_of_command (.inr ht)).oneDriver.symm.trans ho, fun m hm => ?_⟩
  rw [hconf.dec fun hr => hm ((reaches_iff (by decide)).1 hr).2.symm]
  exact hidle m

end Edge

/-- Settles O30: the edge after the command's is the prime that completes it, whether a word on the decoder's port or nothing
comes with it. -/
theorem pinLevelRefinesOperationLevel : Obligations.PinLevelRefinesOperationLevel := by
  refine ⟨fun s t c c' rest hs hu hu' hnum hcfg hidle ht => ⟨fun hb => ?_, fun hb => ?_⟩,
    fun s t c hs hu hidle ht => ⟨fun hb => ?_, fun hb => ?_⟩⟩
  · obtain ⟨v, hv, hcommand⟩ := step_dec_edge_completes hs hu ht hidle rest
    obtain ⟨hinbox, hport, hcfg', ho, hidle'⟩ := after_dec_edge hs hu ht hidle
    obtain ⟨hb', -⟩ | ⟨-, rfl⟩ := hv
    · simp [hb] at hb'
    have hpresent : t.present c' rest = t.nextEdge.relabel rest t.ret := by
      rw [State.present, hnum, hcfg, ← hport, ← hcfg']
      rfl
    have hbusy : ((t.present c' rest).dec (t.present c' rest).port).needPrime = true := by
      rw [State.present_port, hnum]
      exact hb
    obtain ⟨r, -, hedge, -, hret⟩ := command_dec_busy (i := decode .dec c'.ctl) (decode_unit _ _) hbusy
    rw [← step_dec_edge hu' (hnum ▸ hidle') ho hinbox, State.present_port, hnum, hpresent,
      State.primeEdge_relabel] at hedge
    refine ⟨_, _, hedge, hcommand, rfl, fun hfront hpop => ?_⟩
    have hr : r = (t.nextEdge.primeEdge c.num).ret := by
      rw [hret (by simp [hfront, hpop])]
      simp [t.nextEdge.primeEdge_other]
    rw [hr]
    rfl
  · obtain ⟨v, hv, hcommand⟩ := step_dec_edge_completes hs hu ht hidle (.edge false c' :: rest)
    obtain ⟨hinbox, -⟩ := after_dec_edge hs hu ht hidle
    obtain ⟨-, rfl⟩ | ⟨hb', -⟩ := hv
    · rw [ht, hcommand, ← hinbox]
    · simp [hb] at hb'
  · obtain ⟨v, hv, hcommand⟩ := step_dec_edge_completes hs hu ht hidle []
    obtain ⟨hinbox, -, -, ho, hidle'⟩ := after_dec_edge hs hu ht hidle
    obtain ⟨hb', -⟩ | ⟨-, rfl⟩ := hv
    · simp [hb] at hb'
    have hc : t.contended = false := by simp [State.contended, hinbox, ho]
    have hsettle : (t.await []).settle none = (t.await []).primeEdge c.num := State.settle_one hb hidle'
    have hawait : t.await [] = t.nextEdge := by
      rw [State.await, ← hinbox]
      rfl
    have hkept : (t.nextEdge.primeEdge c.num).inbox = [] := by simp [t.nextEdge.primeEdge_other, hinbox]
    rw [hcommand, step_of_not_contended hc, State.cycle, hinbox]
    simp only
    rw [hsettle, hawait, ← hkept]
  · obtain ⟨v, hv, hcommand⟩ := step_dec_edge_completes hs hu ht hidle []
    obtain ⟨hinbox, -⟩ := after_dec_edge hs hu ht hidle
    obtain ⟨-, rfl⟩ | ⟨hb', -⟩ := hv
    · rw [ht, hcommand, ← hinbox]
    · simp [hb] at hb'

end Sys2Proof.Machine
end

section
/-! Who drives an encoder (rules R76, R271, R272): which steps are refused, and that an encoder takes one operation at most at a
clock edge that is not. -/

namespace Sys2Proof.Machine

open Sys2Proof.Claims

variable {s t : State} {k n : Nat} {c : Command} {rest : List Input}

/-! ### Refused steps -/

theorem twoWires_iff : TwoWires s ↔ s.oneDriver = false := by
  rw [← Bool.not_eq_true, s.oneDriver_iff, TwoWires]
  push Not
  exact exists_congr fun k => exists_congr fun p => exists_congr fun p' =>
    ⟨fun ⟨hne, hp, hp'⟩ => ⟨hp, hp', hne⟩, fun ⟨hp, hp', hne⟩ => ⟨hne, hp, hp'⟩⟩

/-- The consumer's command is a second driver of the encoder it is driven on (rules R271, R272). -/
theorem State.secondDriver_iff : s.secondDriver c = true ↔ c.unit = .enc ∧
    ((c.ctl.getLsbD 2 = false ∧ c.ctl.getLsbD 0 = true ∧ ∃ p, s.WiredTo p c.num ∧ (s.common p.1 p.2).live = true) ∨
      (c.ctl ≠ 0#3 ∧ ∃ m i, (s.dec m).needPrime = true ∧ s.WiredTo (.dec, m) c.num ∧ s.decHead m = some (.data i))) := by
  simp only [State.secondDriver, Bool.and_eq_true, Bool.or_eq_true, decide_eq_true_eq, Bool.not_eq_true', bne_iff_ne,
    s.feedsLive_iff, s.primePops_iff, and_assoc]
  rfl

theorem State.contended_command_iff (hs : s.inbox = .command c :: rest ∨ s.inbox = .edge false c :: rest) :
    s.contended = true ↔ TwoWires s ∨ s.nextEdge.secondDriver c = true := by
  rw [twoWires_iff]
  obtain hs | hs := hs <;> simp [State.contended, hs]

theorem step_refused_iff : step s = .refused .twoDrivers ↔ s.contended = true := by
  simp [step_eq_refused_iff]

/-- Settles O5: an operation, a clock edge and a step that is not contended answer a next state, and where no port is chained
or being chained nothing is contended. -/
theorem noThirdOutcome : Obligations.NoThirdOutcome := by
  refine ⟨exec_next, edge_next, fun s hc => ?_, fun s hc => step_refused_iff.2 hc, fun s hw hx => ?_⟩
  · rw [step_of_not_contended hc]
    exact s.cycle_next
  · have hone : s.oneDriver = true := s.oneDriver_iff.2 fun k p _ h => absurd h (hw p k)
    have hsecond (c : Command) : s.nextEdge.secondDriver c = false := by
      rw [← Bool.not_eq_true, State.secondDriver_iff]
      rintro ⟨-, ⟨-, -, p, h, -⟩ | ⟨-, m, -, -, h, -⟩⟩
      · exact hw p c.num h
      · exact hw (.dec, m) c.num h
    rcases hs : s.inbox with _ | ⟨x, rest⟩
    · simp [State.contended, hs, hone]
    cases x with
    | attachDec n w => exact absurd hs (hx n w rest).1
    | attachVal n w => exact absurd hs (hx n w rest).2
    | command c => simp [State.contended, hs, hone, hsecond]
    | edge rst c => cases rst <;> simp [State.contended, hs, hone, hsecond]
    | observe q => simp [State.contended, hs, hone]
    | attachEnc n src =>
      rw [State.contended, hs]
      exact congrArg (! ·) hone

/-! ### One operation at an edge -/

/-- At one edge an encoder is left as it is, or advanced once. -/
def Enc.Once (e e' : Enc) : Prop := e' = e ∨ e' = e.advanced

/-- A source that is popped is not exhausted: a chained encoder completes the `ADVANCE`, unless it is faulted. -/
theorem State.wirePop_once {w : Wire} (hw : s.wireEmpty w = false) : (s.enc k).Once ((s.wirePop w).enc k) := by
  by_cases hk : w = .encoder k
  · subst hk
    obtain ⟨-, e⟩ | ⟨hf, hm, -⟩ | ⟨-, -, e⟩ := s.wireAdvance_cases k
    · exact .inl (by rw [State.wirePop_encoder, e])
    · have hempty : s.encEmpty k = true := by rw [State.encEmpty, if_neg (by simp [hf]), hm]
      exact absurd (hempty.symm.trans hw) (by decide)
    · exact .inr (by simp [e])
  · exact .inl (s.wirePop_enc _ _ hk)

/-- A prime advances the encoder behind the port, if it finds a data symbol. -/
theorem State.primeEdge_once (m : Nat) : (s.enc k).Once ((s.primeEdge m).enc k) := by
  obtain ⟨i, hi, e⟩ | ⟨-, e⟩ := s.prime_cases m
  · have hw : s.wireEmpty (s.dec m).src = false := by
      rw [← Bool.not_eq_true, ← s.head_eq_none_iff (s.dec m).com]
      exact fun hn => nomatch hn.symm.trans hi
    have henc : (s.primeEdge m).enc k = (s.wirePop (s.dec m).src).enc k := by simp [State.primeEdge, e, State.decTake]
    exact henc ▸ State.wirePop_once hw
  · exact .inl (by simp [State.primeEdge, e])

theorem State.primeEdge_enc_other {m : Nat} (hm : (s.dec m).src ≠ .encoder k) : (s.primeEdge m).enc k = s.enc k :=
  (State.confined_primeEdge (A := fun u j => ¬(u = .enc ∧ j = k)) (by simp) fun j hj hk => hm (hk.2 ▸ hj)).enc (by simp)

/-- The edge of a command that is not driven on an encoder pops its unit's source at most, which is not exhausted then. -/
theorem edge_once {u : UnitKind} {w : Ctl} (hu : u ≠ .enc) (ht : edge (decode u w) s = .next t) :
    (s.enc k).Once (t.enc k) := by
  obtain ⟨-, -, -, -, hdec, hval⟩ := sourcePopPin
  have popped {x : Wire} {p : Bool} (henc : t.encs = (if p then s.wirePop x else s).encs)
      (hx : p = true → s.wireEmpty x = false) : (s.enc k).Once (t.enc k) := by
    cases p
    · exact .inl (State.enc_of_encs henc k)
    · exact State.enc_of_encs henc k ▸ State.wirePop_once (hx rfl)
  cases u with
  | enc => exact absurd rfl hu
  | dec =>
    obtain ⟨-, henc, hx⟩ := hdec s t w ht
    exact popped henc hx
  | val =>
    obtain ⟨-, henc, hx⟩ := hval s t w ht
    exact popped henc hx
  | tbl =>
    refine .inl ((edge_confined ht).enc fun hr => ?_)
    simp [reaches_enc_iff, decode_unit] at hr

/-- The rest of an edge keeps an encoder that no busy decoder, but for the driven one, takes a symbol from. -/
theorem State.settle_enc_kept {driven : Option Nat}
    (h : ∀ m, (s.dec m).needPrime = true → driven ≠ some m → (s.dec m).src = .encoder k →
      ∀ i, s.decHead m ≠ some (.data i)) : (s.settle driven).enc k = s.enc k := by
  refine (s.settle_keeps driven (P := fun u => u.enc k = s.enc k ∧ u.tick = s.tick ∧
    ∀ m, (u.dec m).needPrime = true → u.dec m = s.dec m) (fun u m hb hd hu => ?_) ⟨rfl, rfl, fun _ _ => rfl⟩).1
  obtain ⟨henc, htick, hdec⟩ := hu
  obtain ⟨-, -, -, -, -, -, htick', hother, -, -, hidle⟩ := u.primeEdge_other m
  refine ⟨?_, htick'.trans htick, fun j hj => ?_⟩
  · by_cases hw : (u.dec m).src = .encoder k
    · have hsrc : (s.dec m).src = .encoder k := hdec m hb ▸ hw
      have hn := h m (hdec m hb ▸ hb) hd hsrc
      have hhead : u.decHead m = s.decHead m := State.decHead_congr (by rw [hdec m hb]) (by rw [hdec m hb])
        (fun j hj => Wire.encoder.inj (hsrc.symm.trans hj) ▸ henc) htick
      rw [← hhead] at hn
      rw [State.primeEdge, State.prime_else _ _ hn]
      exact henc
    · exact (State.primeEdge_enc_other hw).trans henc
  · have hjm : j ≠ m := fun e => by simp [e, hidle] at hj
    rw [hother j hjm] at hj ⊢
    exact hdec j hj

/-- With one driver an encoder the rest of an edge advances each once at most: one decoder at most is wired to it, and primes
once. -/
theorem State.settle_once (hone : ∀ m m', (s.dec m).src = .encoder k → (s.dec m').src = .encoder k → m = m')
    (driven : Option Nat) : (s.enc k).Once ((s.settle driven).enc k) := by
  refine (s.settle_keeps driven (P := fun u => (u.enc k = s.enc k ∨
    u.enc k = (s.enc k).advanced ∧ ∀ m, (u.dec m).src = .encoder k → (u.dec m).needPrime = false) ∧ s.SameWires u)
    (fun u m hb _ hu => ?_) ⟨.inl rfl, fun _ _ => Iff.rfl⟩).1.imp id And.left
  obtain ⟨henc, hsame⟩ := hu
  obtain ⟨-, -, -, -, -, -, -, hother, -, -, hidle⟩ := u.primeEdge_other m
  have hsame' : s.SameWires (u.primeEdge m) := fun p j =>
    ((State.decConfined_primeEdge m u).sameWires p j).trans (hsame p j)
  refine ⟨?_, hsame'⟩
  by_cases hw : (u.dec m).src = .encoder k
  · obtain henc | ⟨-, hquiet⟩ := henc
    · refine henc ▸ (State.primeEdge_once m).imp id fun hadv => ⟨hadv, fun j hj => ?_⟩
      rw [hone j m ((hsame' (.dec, j) k).1 hj) ((hsame (.dec, m) k).1 hw)]
      exact hidle
    · simp [hquiet m hw] at hb
  · rw [State.primeEdge_enc_other hw]
    refine henc.imp id fun ⟨hadv, hquiet⟩ => ⟨hadv, fun j hj => ?_⟩
    by_cases hjm : j = m
    · exact hjm ▸ hidle
    · rw [hother j hjm] at hj ⊢
      exact hquiet j hj

/-! ### The edge of a step -/

/-- The ports of the machine are wired to different encoders. -/
theorem State.alone_of_not_contended (hs : s.inbox = [] ∨ ∃ c rest, s.inbox = .edge false c :: rest)
    (hc : s.contended = false) : ∀ p p', s.WiredTo p k → s.WiredTo p' k → p = p' := by
  have hone : s.oneDriver = true := by
    obtain hs | ⟨c, rest, hs⟩ := hs
    · simpa [State.contended, hs] using hc
    · rw [← Bool.not_eq_true, State.contended_command_iff (.inr hs), not_or, twoWires_iff] at hc
      simpa using hc.1
  exact s.oneDriver_iff.1 hone k

/-- At an edge an encoder that the consumer drives no command on is advanced once at most: by the prime of the one decoder wired
to it, or by the command of the one unit wired to it. -/
theorem edge_settle_once (halone : ∀ p p', s.WiredTo p k → s.WiredTo p' k → p = p') (hport : s.port = c.num)
    (hnop : c.unit = .enc → c.num = k → c.ctl = 0#3)
    (ht : edge (decode c.unit c.ctl) (s.settle c.drivenDec) = .next t) : (s.enc k).Once (t.enc k) := by
  have hdecs (m m' : Nat) (h : (s.dec m).src = .encoder k) (h' : (s.dec m').src = .encoder k) : m = m' :=
    (Prod.mk.inj (halone (.dec, m) (.dec, m') h h')).2
  have hport' : (s.settle c.drivenDec).port = c.num := (s.settle_other c.drivenDec).2.2.2.1.trans hport
  by_cases hr : Reaches (s.settle c.drivenDec) (decode c.unit c.ctl) .enc k
  · by_cases hu : c.unit = .enc
    · have hk : c.num = k := by simpa [reaches_enc_iff, decode_unit, hu, hport'] using hr
      rw [hu, hnop hu hk] at ht
      cases ht
      exact State.settle_once hdecs _
    · have hwired : s.WiredTo (c.unit, c.num) k := by
        have hsame := s.sameWires_settle c.drivenDec
        rw [reaches_enc_iff, decode_unit, hport'] at hr
        obtain ⟨hu', -⟩ | ⟨hu', hw⟩ | ⟨hu', hw⟩ := hr
        · exact absurd hu' hu
        · exact hu' ▸ (hsame (.dec, c.num) k).1 hw
        · exact hu' ▸ (hsame (.val, c.num) k).1 hw
      have hkept : (s.settle c.drivenDec).enc k = s.enc k := State.settle_enc_kept fun m _ hd hw => by
        obtain ⟨hu', rfl⟩ := Prod.mk.inj (halone (.dec, m) (c.unit, c.num) hw hwired)
        exact absurd (by simp [Command.drivenDec, ← hu']) hd
      exact hkept ▸ edge_once hu ht
  · exact (edge_confined ht).enc hr ▸ State.settle_once hdecs _

/-- At an edge an encoder that the consumer drives a command on takes nothing else: no prime takes a symbol from it. -/
theorem edge_settle_enc (hport : s.port = n) {w : Ctl}
    (hquiet : ∀ m, (s.dec m).needPrime = true → (s.dec m).src = .encoder n → ∀ i, s.decHead m ≠ some (.data i))
    (ht : edge (decode .enc w) (s.settle none) = .next t) :
    ∃ u, edge (decode .enc w) s = .next u ∧ t.enc n = u.enc n := by
  obtain ⟨-, -, -, hp, hc, hr, hk, -⟩ := s.settle_other none
  have hi : (decode .enc w).unit = .enc := decode_unit _ _
  have hkept : (s.settle none).enc n = s.enc n := State.settle_enc_kept fun m hb _ => hquiet m hb
  rw [edge_eq_exec (by simp [hi])] at ht ⊢
  obtain ⟨u, hu⟩ := exec_next (decode .enc w) s
  refine ⟨u, hu, ?_⟩
  have heq := ((outcomeDependsOnTheDrivenUnitAlone _ _ _ _ _ hp hc hk hr ht hu).1 hi (by rw [hp, hport]; exact hkept)).2
  rwa [hp, hport] at heq

/-- Settles O60: a step is refused where it is contended, and where it is not an encoder has one driver, which drives it once. -/
theorem twoDriversAreRefused : Obligations.TwoDriversAreRefused := by
  refine ⟨fun s r h => (step_eq_refused_iff.1 h).2, fun s c rest hs => ?_, fun s hs => ?_, fun s n w rest hs => ?_,
    fun s n w rest hs => ?_, fun s t k ht hs hnop => ?_, fun s t c rest ht hs hu hctl => ?_⟩
  · rw [step_refused_iff, State.contended_command_iff hs, State.secondDriver_iff]
    rfl
  · rw [step_refused_iff, twoWires_iff]
    obtain hs | ⟨q, rest, hs⟩ | ⟨n, src, rest, hs⟩ := hs
    · simp [State.contended, hs]
    · simp [State.contended, hs]
    · have hone : (s.rewired (.attachEnc n src)).oneDriver = s.oneDriver := rfl
      simp [State.contended, hs, hone]
  · rw [step_refused_iff, twoWires_iff]
    simp [State.contended, hs, State.rewired]
  · rw [step_refused_iff, twoWires_iff]
    simp [State.contended, hs, State.rewired]
  · obtain ⟨-, e⟩ | ⟨hc, e⟩ := step_cases s <;> rw [e] at ht
    · cases ht
    have halone := State.alone_of_not_contended (k := k) hs hc
    obtain hs | ⟨c, rest, hs⟩ := hs <;> simp only [State.cycle, hs] at ht
    · cases ht
      exact State.settle_once (s := s.await []) (fun m m' h h' => (Prod.mk.inj (halone (.dec, m) (.dec, m') h h')).2) none
    · exact edge_settle_once (s := s.present c rest) halone rfl (hnop c rest hs) ht
  · obtain ⟨-, e⟩ | ⟨hc, e⟩ := step_cases s <;> rw [e] at ht
    · cases ht
    rw [← Bool.not_eq_true, State.contended_command_iff (.inr hs), not_or, State.secondDriver_iff] at hc
    have hd : c.drivenDec = none := by simp [Command.drivenDec, hu]
    simp only [State.cycle, hs, hd, hu] at ht
    exact edge_settle_enc (s := s.present c rest) rfl
      (fun m hb hw i hi => hc.2 ⟨hu, .inr ⟨hctl, m, i, hb, hw, hi⟩⟩) ht

end Sys2Proof.Machine
end

section
/-! An encoder's padding flag (rule R27): it is set where the source has ended, at `pos` 2 and 3. -/

namespace Sys2Proof.Machine

open Sys2Proof.Claims

variable {s t : State} {i : Instr} {n : Nat}

/-- The flag stands at `pos` 2 or 3, over an exhausted source. -/
def Enc.PadEnded (e : Enc) : Prop := e.pad = true → (e.pos = 2 ∨ e.pos = 3) ∧ e.src.exhausted = true

/-- An advance sets the flag where it finds the source exhausted, and takes nothing while it stands. -/
theorem Enc.stable_padEnded : Enc.Stable Enc.PadEnded := by
  refine ⟨fun _ _ _ h => h, fun e hf hm h hd => ⟨Enc.stable_pad.advanced e hf hm (fun hd => (h hd).1) hd, ?_⟩⟩
  obtain ⟨-, ha⟩ | ⟨-, hpad, ha⟩ | ⟨-, -, hx, ha⟩ | ⟨-, -, hx, ha⟩ := e.advanced_cases <;> rw [ha] at hd ⊢
  · cases hd
  · exact (h hpad).2
  · exact hx
  · exact absurd ((h hd).2.symm.trans hx) (by decide)

/-- A construction clears it, at either level. -/
theorem padEnded_of_construction (hc : constructs i = true) (hd : Drives s i .enc n)
    (ht : exec i s = .next t ∨ edge i s = .next t) : (t.enc n).PadEnded := by
  obtain ⟨hu, rfl⟩ := hd
  rw [edge_eq_exec (by simp [hu]), or_self] at ht
  cases i <;> cases hu <;> cases hc
  obtain ⟨c, p, e, -⟩ := exec_encConstruct_enc ht
  rw [e]
  nofun

/-- A step that constructs the encoder clears it too. -/
theorem padEnded_of_constructing (hc : Constructing s .enc n) (ht : s.cycle = .next t) : (t.enc n).PadEnded := by
  obtain ⟨c, rest, hs, hu, hp, hcon⟩ := hc
  obtain ⟨-, -, -, hport, -⟩ := (s.present c rest).settle_other c.drivenDec
  have hd : Drives ((s.present c rest).settle c.drivenDec) (decode c.unit c.ctl) .enc n :=
    ⟨(decode_unit _ _).trans hu, hport.trans hp⟩
  obtain hs | hs := hs <;> simp only [State.cycle, hs] at ht
  · exact padEnded_of_construction hcon hd (.inl ht)
  · exact padEnded_of_construction hcon hd (.inr ht)

/-- Settles O20: the flag is constructed clear, and advances and the wiring of conforming sources keep what it says. -/
theorem paddingFlagMeansInputEnded : Obligations.PaddingFlagMeansInputEnded := by
  refine ⟨fun i s t n ht h => ?_, fun s t n hs ht hl h => ?_⟩
  · by_cases hc : constructs i = true ∧ Drives s i .enc n
    · exact padEnded_of_construction hc.1 hc.2 (.inl ht)
    · exact exec_stable Enc.stable_padEnded h ht hc
  · have hwired : (s.wiring.enc n).PadEnded := by
      rw [s.wiring_enc]
      intro hd
      obtain ⟨hp, hx⟩ := h hd
      have hx' := hs.permanent .enc n s.wiring.tick hl (by simp [State.srcShows, hx])
      exact ⟨hp, by simpa [State.srcShows] using hx'⟩
    have hreset (r : State) : (r.hardReset.enc n).PadEnded := by
      simp [Enc.PadEnded, (r.hardReset_enc n).pad]
    obtain ⟨-, e⟩ | ⟨-, e⟩ := step_cases s <;> rw [e] at ht
    · cases ht
    by_cases hc : Constructing s .enc n
    · exact padEnded_of_constructing hc ht
    · exact cycle_stable Enc.stable_padEnded hreset hwired hc ht

end Sys2Proof.Machine
end

section
/-! The alphabet check, the packing arithmetic, the encodings, the reset state and the source primitives, each from the laws of
the definitions it is about. -/

namespace Sys2Proof.Machine

open Sys2Proof.Claims

variable {c : Common} {s : State}

/-! ### The 65 symbols (rules R120, R122) -/

/-- Every letter and digit is the symbol of one of the first 62 indices. -/
theorem Common.exists_fwd_of_std62 (c : Common) {x : Sym} (h : std62 (zext8 x) = true) :
    ∃ i : Idx, i.toNat ≤ 61 ∧ c.fwd i = x := by
  simp only [std62_iff, zext8_toNat] at h
  have index (k : Nat) (hk : k ≤ 61) : (BitVec.ofNat 6 k).toNat = k := by
    rw [BitVec.toNat_ofNat]
    omega
  obtain h | h | h := h
  · have hi := index (x.toNat - 0x41) (by omega)
    refine ⟨BitVec.ofNat 6 (x.toNat - 0x41), by omega, BitVec.eq_of_toNat_eq ?_⟩
    rw [c.fwd_upper (by omega)]
    omega
  · have hi := index (x.toNat - 0x61 + 26) (by omega)
    refine ⟨BitVec.ofNat 6 (x.toNat - 0x61 + 26), by omega, BitVec.eq_of_toNat_eq ?_⟩
    rw [c.fwd_lower (by omega) (by omega)]
    omega
  · have hi := index (x.toNat - 0x30 + 52) (by omega)
    refine ⟨BitVec.ofNat 6 (x.toNat - 0x30 + 52), by omega, BitVec.eq_of_toNat_eq ?_⟩
    rw [c.fwd_digit (by omega) (by omega)]
    omega

theorem Common.fwd_injective (hok : cfgOk (zext8 c.c62) (zext8 c.c63) (zext8 c.cpad) = true) {i j : Idx}
    (h : c.fwd i = c.fwd j) : i = j := by
  have hi := Common.rev_fwd hok i
  rw [h, Common.rev_fwd hok j] at hi
  exact (SymClass.data.inj hi).symm

/-- Distinct symbols pass the check: a register with a letter or digit in it holds the symbol of another index. -/
theorem Common.cfgOk_of_distinct (hinj : ∀ i j, c.fwd i = c.fwd j → i = j) (hpad : ∀ i, c.fwd i ≠ c.padSym) :
    cfgOk (zext8 c.c62) (zext8 c.c63) (zext8 c.cpad) = true := by
  have fixed (k : Idx) (hk : 61 < k.toNat) : std62 (zext8 (c.fwd k)) = false := by
    rw [← Bool.not_eq_true]
    intro h
    obtain ⟨i, hi, e⟩ := c.exists_fwd_of_std62 h
    rw [hinj i k e] at hi
    omega
  have padFree : std62 (zext8 c.cpad) = false := by
    rw [← Bool.not_eq_true]
    intro h
    obtain ⟨i, -, e⟩ := c.exists_fwd_of_std62 h
    exact hpad i e
  have apart {x y : Sym} (h : x ≠ y) : (zext8 x).toNat ≠ (zext8 y).toNat := by
    rw [zext8_toNat, zext8_toNat]
    exact fun e => h (BitVec.eq_of_toNat_eq e)
  have low (x : Sym) : (zext8 x).toNat < 128 := zext8_toNat x ▸ x.isLt
  refine (cfgOk_iff _ _ _).2 ⟨⟨low _, low _, low _⟩, ⟨fixed 62#6 (by decide), fixed 63#6 (by decide), padFree⟩,
    apart fun e => ?_, apart fun e => hpad 62#6 e, apart fun e => hpad 63#6 e⟩
  exact absurd (hinj 62#6 63#6 e) (by decide)

/-- Settles O7: the reverse map undoes the forward map of an accepted table, and distinct symbols pass the check. -/
theorem acceptedMeansAllSymbolsDistinct : Obligations.AcceptedMeansAllSymbolsDistinct :=
  fun _ => ⟨fun hok => ⟨fun _ _ => Common.fwd_injective hok, fwd_ne_padSym hok⟩,
    fun ⟨hinj, hpad⟩ => Common.cfgOk_of_distinct hinj hpad⟩

/-! ### Packing (rule R79) -/

/-- Settles O16: each index and each byte is the shift and mask of the law. -/
theorem packingArithmetic : Obligations.PackingArithmetic :=
  ⟨fun prev cur => ⟨encIdx0_eq_shift cur, encIdx1_eq_shift prev cur, encIdx2_eq_shift prev cur, encIdx3_eq_mask prev⟩,
    fun prev cur => ⟨decByte0_eq_shift prev cur, decByte1_eq_shift prev cur, decByte2_eq_shift prev cur⟩⟩

/-! ### Encodings (rules R94, R95) -/

theorem ctlOf_bits (start rd adv : Bool) : (ctlOf start rd adv).getLsbD 2 = start ∧
    (ctlOf start rd adv).getLsbD 1 = rd ∧ (ctlOf start rd adv).getLsbD 0 = adv := by
  revert start rd adv
  decide

theorem decode_encode (i : Instr) : decode (encode i).1 (encode i).2 = i := by
  cases i <;> simp only [encode, decode, ctlOf_bits, decodeEnc, decodeDec, decodeVal, decodeTbl]

theorem encode_unit (i : Instr) : (encode i).1 = i.unit := by
  rw [← decode_unit (encode i).1 (encode i).2, decode_encode]

theorem encode_decode (u : UnitKind) (w : Ctl) : encode (decode u w) = (u, w) := by
  cases u <;> revert w <;> decide

/-- The three fields of a port byte read back. -/
theorem portByte_fields (v : BitVec 2) (w : Ctl) : (0#3 ++ v ++ w : Byte).extractLsb' 5 3 = 0#3 ∧
    (0#3 ++ v ++ w : Byte).getLsbD 4 = v.getLsbD 1 ∧ (0#3 ++ v ++ w : Byte).getLsbD 3 = v.getLsbD 0 ∧
    (0#3 ++ v ++ w : Byte).extractLsb' 0 3 = w := by
  revert v w
  decide

theorem unitOfBits_unitBits (u : UnitKind) : unitOfBits ((unitBits u).getLsbD 1) ((unitBits u).getLsbD 0) = u := by
  cases u <;> rfl

theorem unitBits_unitOfBits (v : BitVec 2) : unitBits (unitOfBits (v.getLsbD 1) (v.getLsbD 0)) = v := by
  revert v
  decide

/-- A byte without a meaningless bit is put together from its unit type and its word. -/
theorem portByte_of_fields {b : Byte} (h : b.extractLsb' 5 3 = 0#3) :
    (0#3 ++ b.extractLsb' 3 2 ++ b.extractLsb' 0 3 : Byte) = b := by
  rw [← h, BitVec.extractLsb'_append_extractLsb'_eq_extractLsb' (start₁ := 3) (len₁ := 2) rfl]
  exact BitVec.extractLsb'_append_extractLsb' (w := 5) (len := 3)

theorem decodePort_encodePort (i : Instr) : decodePort (encodePort i) = .ok i := by
  obtain ⟨hunused, h4, h3, hword⟩ := portByte_fields (unitBits (encode i).1) (encode i).2
  rw [decodePort, encodePort, if_pos hunused, h4, h3, hword, unitOfBits_unitBits, decode_encode]

theorem encodePort_of_decodePort {b : Byte} {i : Instr} (h : decodePort b = .ok i) : encodePort i = b := by
  unfold decodePort at h
  split at h
  · next hunused =>
    cases h
    have hfields : unitBits (unitOfBits (b.getLsbD 4) (b.getLsbD 3)) = b.extractLsb' 3 2 := by
      simpa using unitBits_unitOfBits (b.extractLsb' 3 2)
    rw [encodePort, encode_decode, hfields]
    exact portByte_of_fields hunused
  · cases h

/-- Settles O2: on control words and on port bytes each of the two undoes the other, and a byte or word with a bit beside them
is rejected. -/
theorem decodeAndEncodeAgree : Obligations.DecodeAndEncodeAgree := by
  refine ⟨decode_encode, fun u w => ⟨encode_decode u w, decode_unit u w⟩, fun i => ⟨decodePort_encodePort i, ?_⟩,
    fun b i => encodePort_of_decodePort, fun b hb => ?_, fun nbits w hw => ?_⟩
  · have hbits : decodeBits 8 (encodePort i).toNat = .ok i := by
      have hlt := (encodePort i).isLt
      rw [decodeBits, Nat.mod_eq_of_lt hlt, if_pos hlt, BitVec.ofNat_toNat, BitVec.setWidth_eq, decodePort_encodePort]
    rw [decodeTableWord, hbits]
  · have hunused : b.extractLsb' 5 3 ≠ 0#3 := by
      intro h
      have hzero := congrArg BitVec.toNat h
      have hlt := b.isLt
      simp only [BitVec.extractLsb'_toNat, Nat.shiftRight_eq_div_pow, BitVec.toNat_ofNat] at hzero
      omega
    rw [decodePort, if_neg hunused]
  · have hbits : decodeBits nbits w = .error .tooLong := if_neg (by omega)
    exact ⟨hbits, by rw [decodeTableWord, hbits]⟩

/-! ### A step (rules R95, R100, R260) -/

theorem withFetchWord_of_decodes {nbits w : Nat} {i : Instr} (h : decodeTableWord nbits w = some i) :
    s.withFetchWord nbits w = { s with inbox := .command ⟨i.unit, 0, (encode i).2, CfgPins.standard⟩ :: s.inbox } := by
  have hok : decodeBits nbits w = .ok i := by
    unfold decodeTableWord at h
    split at h
    · cases h
      assumption
    · cases h
  rw [State.withFetchWord, hok, ← encode_unit]

/-- Settles O4: a step that is not contended is a cycle, of the event that is pending. -/
theorem stepPerformsThePendingInput : Obligations.StepPerformsThePendingInput := by
  refine ⟨fun s c rest hs hc => ?_, fun s c rest hs hc => ?_, fun s c rest hs => step_reset hs, fun s hs hc => ?_,
    fun s d hd => s.settle_idle d hd, fun s nbits w i hi hc => ?_⟩
  · rw [step_of_not_contended hc, State.cycle, hs]
    rfl
  · rw [step_of_not_contended hc, State.cycle, hs]
    rfl
  · rw [step_of_not_contended hc, State.cycle, hs]
    simp only [State.await, ← hs]
  · rw [step_of_not_contended hc, withFetchWord_of_decodes hi, State.cycle]
    simp only [← encode_unit, decode_encode]
    rfl

/-! ### Reset (rule R40) -/

theorem State.reset_enc (n : Nat) : State.reset.enc n = Enc.reset := by cases n <;> rfl

theorem State.reset_dec (n : Nat) : State.reset.dec n = Dec.reset := by cases n <;> rfl

theorem State.reset_val (n : Nat) : State.reset.val n = Val.reset := by cases n <;> rfl

theorem State.reset_tbl (n : Nat) : State.reset.tbl n = Tbl.reset := by cases n <;> rfl

theorem State.reset_common (u : UnitKind) (n : Nat) : State.reset.common u n = Common.reset := by
  cases u with
  | enc => exact congrArg Enc.com (State.reset_enc n)
  | dec => exact congrArg Dec.com (State.reset_dec n)
  | val => exact congrArg Val.com (State.reset_val n)
  | tbl => exact congrArg Tbl.com (State.reset_tbl n)

/-- Settles O55: the unit of every number is in its reset state, listed or not. -/
theorem resetState : Obligations.ResetState := by
  intro n
  simp only [State.reset_common, State.reset_enc, State.reset_dec, State.reset_val, State.answer, State.encEmpty,
    State.decEmpty, State.valOk]
  exact ⟨fun _ => ⟨rfl, rfl⟩, rfl, rfl, rfl, rfl, rfl, rfl, rfl, rfl, rfl, rfl⟩

/-! ### Source ports (rules R61, R75, R279) -/

theorem Source.exhausted_eq (src : Source) : src.exhausted = decide (src.tail = .ends ∧ src.items.length ≤ src.rp) := by
  unfold Source.exhausted
  split <;> simp_all

/-- A pop at a port wired to encoder `k` is its `ADVANCE`, of which no consumer sees the outcome. -/
theorem State.wirePop_eq_advance {k : Nat} {t : State} (ht : exec .encAdvance { s with port := k } = .next t) :
    s.wirePop (.encoder k) = { t with port := s.port, ret := s.ret } := by
  cases ht
  rw [State.wirePop_encoder]
  obtain ⟨hf, e⟩ | ⟨hf, hm, e⟩ | ⟨hf, hm, e⟩ := s.wireAdvance_cases k <;> rw [e]
  · rw [State.encStrobe_faulted _ _ hf]
    rfl
  · rw [State.encStrobe_exhausted _ _ hf hm]
    rfl
  · rw [State.encStrobe_ready _ _ hf hm]
    rfl

/-- Settles O36: a stream answers for itself, an encoder by its pins and its `ADVANCE`. -/
theorem sourcePortPrimitives : Obligations.SourcePortPrimitives := by
  refine ⟨fun s src => ⟨src.exhausted_eq, fun b hb => ?_, fun k hk hn => ?_, rfl, rfl⟩,
    fun s k => ⟨rfl, fun v hv => ?_, rfl, fun t ht => State.wirePop_eq_advance ht⟩⟩
  · simp [State.wireFront, Source.front, hb]
  · simp [State.wireFront, Source.front, hn, hk]
  · rw [← Ret.symbol.inj hv]
    rfl

end Sys2Proof.Machine
end
